-- ==== Sys2Proof/Word.lean ====
section
/-! DEFINITION. The word types of the engine: whole bit vectors numbered from bit 0 at the least
significant end (R10); no byte order exists because no word is ever taken apart into bytes (R56). -/

namespace Sys2Proof

/-- A command word or a response word: 64 bits (R80, R84). -/
abbrev Word64 := BitVec 64

/-- A stored word (PTE, `W1[k]`, `W2[k]`) or a notification event word: 32 bits (R52 to R54, R85). -/
abbrev Word32 := BitVec 32

/-- A virtual page number: exactly 20 bits, no wider value can be presented (R8, R50). -/
abbrev Vpn := BitVec 20

/-- A physical frame number: exactly 20 bits (R8, R50). -/
abbrev Pfn := BitVec 20

/-- A TLB entry index as a command or `HAND` carries it: 20 bits (R50, R26). -/
abbrev TlbIndex := BitVec 20

/-- A first-level or second-level page-table index: 10 bits (R8, R55). -/
abbrev TableIndex := BitVec 10

end Sys2Proof
end

