-- ==== Sys2Proof/Syntax.lean ====
section
/-! DEFINITION. The command set `TDC-CMD-1` (R1, R82): one constructor per row of
`spec/opcode_table.json`, and the assembler's source lines (R88, R89). -/

namespace Sys2Proof

/-- The access kind of TLB_LOOKUP: field ST, 0 = LOAD and 1 = STORE (R80, D9). -/
inductive Access where
  | load
  | store
  deriving DecidableEq, Repr

/-- A decoded command (R82). Every operand has the type of its field, so every value of this type is
a command the engine can be given: there is no ill-formed `Instr` (R80, R81). -/
inductive Instr where
  /-- PT_INIT (R111). -/
  | ptInit
  /-- PT_GET_FRAME vpn (R112). -/
  | ptGetFrame (vpn : Vpn)
  /-- PT_UPDATE vpn, pfn (R113). -/
  | ptUpdate (vpn : Vpn) (pfn : Pfn)
  /-- PT_CLEAR_ENTRY vpn (R114). -/
  | ptClearEntry (vpn : Vpn)
  /-- TLB_INIT (R141). -/
  | tlbInit
  /-- TLB_LOOKUP vpn, LOAD|STORE (R142). -/
  | tlbLookup (vpn : Vpn) (op : Access)
  /-- TLB_INSERT vpn, pfn, m, r: `modify_bit` then `reference_bit` (R170). -/
  | tlbInsert (vpn : Vpn) (pfn : Pfn) (m r : Bool)
  /-- TLB_CLEAR_ALL (R144). -/
  | tlbClearAll
  /-- TLB_CLEAR_ALL_REF (R145). -/
  | tlbClearAllRef
  /-- TLB_CLEAR_ENTRY vpn (R146). -/
  | tlbClearEntry (vpn : Vpn)
  /-- TLB_WRITE_BACK (R202). -/
  | tlbWriteBack
  /-- PT_READ_PTE vpn, a debug read (R115). -/
  | ptReadPte (vpn : Vpn)
  /-- TLB_READ_ENTRY idx, a debug read (R150). -/
  | tlbReadEntry (idx : TlbIndex)
  /-- TLB_READ_HAND, a debug read (R151). -/
  | tlbReadHand
  deriving DecidableEq, Repr

/-- One source line of the assembler: a mnemonic with its operands as the numbers written, in the
source's argument order, the four pseudo-instructions included (R88, R89). The numbers are not yet
checked against their fields; `SourceLine.wellFormed` does that. -/
inductive SourceLine where
  | ptInit
  | ptGetFrame (vpn : Nat)
  | ptUpdate (vpn pfn : Nat)
  | ptClearEntry (vpn : Nat)
  | tlbInit
  | tlbLookup (vpn : Nat) (op : Access)
  | tlbInsert (vpn pfn m r : Nat)
  | tlbClearAll
  | tlbClearAllRef
  | tlbClearEntry (vpn : Nat)
  | tlbWriteBack
  | ptReadPte (vpn : Nat)
  | tlbReadEntry (idx : Nat)
  | tlbReadHand
  /-- `TLB_REFILL vpn, pfn, m, r` (R89). -/
  | tlbRefill (vpn pfn m r : Nat)
  /-- `UNMAP vpn` (R89). -/
  | unmap (vpn : Nat)
  /-- `REMAP vpn, pfn` (R89). -/
  | remap (vpn pfn : Nat)
  /-- `TLB_FLUSH` (R89). -/
  | tlbFlush
  deriving DecidableEq, Repr

end Sys2Proof
end

