-- ==== Sys2Proof/Decode.lean ====
section
/-! DEFINITION. The decoder of the 64-bit command word, total on all `2^64` words (R80, R83, R86), and
the encoder written from the same field positions (R80, R82). -/

namespace Sys2Proof

/-- `cmd.OP = w[3:0]` (R80). -/
def fieldOp (w : Word64) : BitVec 4 := w.extractLsb' 0 4
/-- `cmd.ST = w[4]` (R80). -/
def fieldSt (w : Word64) : Access := if w.getLsbD 4 then .store else .load
/-- `cmd.M = w[5]` (R80). -/
def fieldM (w : Word64) : Bool := w.getLsbD 5
/-- `cmd.R = w[6]` (R80). -/
def fieldR (w : Word64) : Bool := w.getLsbD 6
/-- `cmd.VPN = w[27:8]` (R80). -/
def fieldVpn (w : Word64) : Vpn := w.extractLsb' 8 20
/-- `cmd.PFN = w[51:32]` (R80). -/
def fieldPfn (w : Word64) : Pfn := w.extractLsb' 32 20
/-- `cmd.IDX = w[51:32]` (R80). -/
def fieldIdx (w : Word64) : TlbIndex := w.extractLsb' 32 20

/-- Why a word is no command; each is the fault ILLEGAL_COMMAND (R83). -/
inductive IllegalWord where
  /-- OP is 0xE or 0xF (R82, R83). -/
  | reservedOpcode
  /-- A bit is 1 outside the opcode's OP field and its used operand fields (R83). -/
  | nonzeroUnusedField
  deriving DecidableEq, Repr

/-- `match` and `mask` of a row of the opcode table: a word `w` is the row's command iff
`w & mask = match` (R83). -/
structure OpcodeRow where
  mnemonic : String
  pattern : Word64
  mask : Word64
  deriving DecidableEq, Repr

/-- The opcode table, row `op` for `OP = op` (R82, `spec/opcode_table.json`). -/
def opcodeTable : List OpcodeRow :=
  [ ⟨"PT_INIT", 0x0000000000000000, 0xFFFFFFFFFFFFFFFF⟩,
    ⟨"PT_GET_FRAME", 0x0000000000000001, 0xFFFFFFFFF00000FF⟩,
    ⟨"PT_UPDATE", 0x0000000000000002, 0xFFF00000F00000FF⟩,
    ⟨"PT_CLEAR_ENTRY", 0x0000000000000003, 0xFFFFFFFFF00000FF⟩,
    ⟨"TLB_INIT", 0x0000000000000004, 0xFFFFFFFFFFFFFFFF⟩,
    ⟨"TLB_LOOKUP", 0x0000000000000005, 0xFFFFFFFFF00000EF⟩,
    ⟨"TLB_INSERT", 0x0000000000000006, 0xFFF00000F000009F⟩,
    ⟨"TLB_CLEAR_ALL", 0x0000000000000007, 0xFFFFFFFFFFFFFFFF⟩,
    ⟨"TLB_CLEAR_ALL_REF", 0x0000000000000008, 0xFFFFFFFFFFFFFFFF⟩,
    ⟨"TLB_CLEAR_ENTRY", 0x0000000000000009, 0xFFFFFFFFF00000FF⟩,
    ⟨"TLB_WRITE_BACK", 0x000000000000000A, 0xFFFFFFFFFFFFFFFF⟩,
    ⟨"PT_READ_PTE", 0x000000000000000B, 0xFFFFFFFFF00000FF⟩,
    ⟨"TLB_READ_ENTRY", 0x000000000000000C, 0xFFF00000FFFFFFFF⟩,
    ⟨"TLB_READ_HAND", 0x000000000000000D, 0xFFFFFFFFFFFFFFFF⟩ ]

/-- Whether a word is the command of a row (R83). -/
def OpcodeRow.accepts (r : OpcodeRow) (w : Word64) : Bool := w &&& r.mask == r.pattern

/-- The command of opcode number `op` with the operand fields of `w` that it uses (R82); none for the
reserved opcodes. The row's mask is checked by `decode`. -/
def commandOf (op : Nat) (w : Word64) : Option Instr :=
  match op with
  | 0 => some .ptInit
  | 1 => some (.ptGetFrame (fieldVpn w))
  | 2 => some (.ptUpdate (fieldVpn w) (fieldPfn w))
  | 3 => some (.ptClearEntry (fieldVpn w))
  | 4 => some .tlbInit
  | 5 => some (.tlbLookup (fieldVpn w) (fieldSt w))
  | 6 => some (.tlbInsert (fieldVpn w) (fieldPfn w) (fieldM w) (fieldR w))
  | 7 => some .tlbClearAll
  | 8 => some .tlbClearAllRef
  | 9 => some (.tlbClearEntry (fieldVpn w))
  | 10 => some .tlbWriteBack
  | 11 => some (.ptReadPte (fieldVpn w))
  | 12 => some (.tlbReadEntry (fieldIdx w))
  | 13 => some .tlbReadHand
  | _ => none

/-- The decoder of R86: reserved opcodes first, then the row's mask and match, then the fields. It takes
exactly one word (R87). -/
def decode (w : Word64) : Except IllegalWord Instr :=
  match opcodeTable[(fieldOp w).toNat]?, commandOf (fieldOp w).toNat w with
  | some row, some i => if row.accepts w then .ok i else .error .nonzeroUnusedField
  | _, _ => .error .reservedOpcode

/-- The opcode of a command (R82). -/
def opcodeOf : Instr → BitVec 4
  | .ptInit => 0x0
  | .ptGetFrame _ => 0x1
  | .ptUpdate _ _ => 0x2
  | .ptClearEntry _ => 0x3
  | .tlbInit => 0x4
  | .tlbLookup _ _ => 0x5
  | .tlbInsert _ _ _ _ => 0x6
  | .tlbClearAll => 0x7
  | .tlbClearAllRef => 0x8
  | .tlbClearEntry _ => 0x9
  | .tlbWriteBack => 0xA
  | .ptReadPte _ => 0xB
  | .tlbReadEntry _ => 0xC
  | .tlbReadHand => 0xD

/-- The ST bit of an access kind (R80, D9). -/
def accessBit : Access → BitVec 1
  | .load => 0
  | .store => 1

/-- A command word from the values of its fields, reserved bits 0, from bit 63 down to bit 0 (R80). -/
def commandWord (op : BitVec 4) (st m r : BitVec 1) (vpn : Vpn) (hi : BitVec 20) : Word64 :=
  0#12 ++ hi ++ 0#4 ++ vpn ++ 0#1 ++ r ++ m ++ st ++ op

/-- The encoder: the one word of a command, unused operand fields 0 (R80, R82, R87). -/
def encode (i : Instr) : Word64 :=
  match i with
  | .ptGetFrame v => commandWord (opcodeOf i) 0 0 0 v 0
  | .ptUpdate v f => commandWord (opcodeOf i) 0 0 0 v f
  | .ptClearEntry v => commandWord (opcodeOf i) 0 0 0 v 0
  | .tlbLookup v op => commandWord (opcodeOf i) (accessBit op) 0 0 v 0
  | .tlbInsert v f m r => commandWord (opcodeOf i) 0 (BitVec.ofBool m) (BitVec.ofBool r) v f
  | .tlbClearEntry v => commandWord (opcodeOf i) 0 0 0 v 0
  | .ptReadPte v => commandWord (opcodeOf i) 0 0 0 v 0
  | .tlbReadEntry k => commandWord (opcodeOf i) 0 0 0 0 k
  | .ptInit | .tlbInit | .tlbClearAll | .tlbClearAllRef | .tlbWriteBack | .tlbReadHand =>
      commandWord (opcodeOf i) 0 0 0 0 0

/-- The word whose low `nbits` bits are those of `w` and whose other bits are 0. A command is one whole
64-bit word in which no byte order is observable (R56, R87), so it is laid out as the number itself. -/
def tableWord (nbits w : Nat) : Word64 := BitVec.ofNat 64 (w % 2 ^ nbits)

/-- The instruction the decoder reads from a word numbered as `spec/opcode_table.json` numbers it. -/
def decodeTableWord (nbits w : Nat) : Option Instr :=
  match decode (tableWord nbits w) with
  | .ok i => some i
  | .error _ => none

end Sys2Proof
end

