-- ==== Sys2Proof/Config.lean ====
section
/-! DEFINITION. The parameters of an engine instance (R9, R32) and the one free value of the spec,
`draw_20()` (R12, D16). A parameter is fixed for the life of the instance, and a claim about the
engine quantifies over every `Config`. -/

namespace Sys2Proof

/-- One TLB entry: the two packed 32-bit words of R30, in the layouts of R53 and R54. -/
structure TlbEntry where
  /-- `W1[k]`: valid bit 31, VPN in bits 19:0 (R53). -/
  w1 : Word32
  /-- `W2[k]`: reference bit 31, modify bit 30, PFN in bits 19:0 (R54). -/
  w2 : Word32
  deriving DecidableEq, Repr

/-- The configuration `cfg = (N, L2_POOL, CHECK_UNIQUE, TLB_INIT_CONTENTS)` of one engine instance
(R9, R32, R256). The ranges of R9 are part of the type, so no instance outside them can be built
(`93_implementation_defined.md` I8: `N = 0` is refused). -/
structure Config where
  /-- `N`: the TLB capacity (R9, D11). -/
  n : Nat
  /-- `L2_POOL`: how many second-level tables can be allocated (R9, D19). -/
  l2Pool : Nat
  /-- `CHECK_UNIQUE`: whether TLB_INSERT defends the uniqueness of valid VPNs (R9, D20). -/
  checkUnique : Bool
  /-- `TLB_INIT_CONTENTS`: for each `k < N` the two words TLB_INIT starts from (R9, D13). -/
  tlbInitContents : List TlbEntry
  /-- R9: `1 ≤ N ≤ 2^20`. -/
  n_range : 1 ≤ n ∧ n ≤ 2 ^ 20 := by decide
  /-- R9: `1 ≤ L2_POOL ≤ 1024`. -/
  l2Pool_range : 1 ≤ l2Pool ∧ l2Pool ≤ 1024 := by decide
  /-- R9: `TLB_INIT_CONTENTS` gives two words for each `k < N`. -/
  contents_length : tlbInitContents.length = n := by rfl
  deriving DecidableEq, Repr

/-- `draw_20()`: the value the environment chose for the draw with this number, under no law (R12,
R36, D16; assumption 3). It has no body, so nothing can be proved of any of its values. -/
opaque Config.draw20 : Nat → Pfn

/-- The configuration `State.reset` is built with: `N = 2` and zero `TLB_INIT_CONTENTS`, the values
the spec's vectors use, and the spec's defaults `L2_POOL = 1024` and `CHECK_UNIQUE = true` (R9;
DESIGN CHOICE, assumption 2). Claims quantify over every configuration. -/
def Config.standard : Config where
  n := 2
  l2Pool := 1024
  checkUnique := true
  tlbInitContents := [⟨0, 0⟩, ⟨0, 0⟩]

end Sys2Proof
end

