-- ==== Sys2Proof/Machine/State.lean ====
section
/-! DEFINITION. The whole state of the engine as plain data (R22), the outputs it has produced (R31,
R254), the model's own bookkeeping (R21, R36), and the state right after power-on reset (R35). -/

namespace Sys2Proof.Machine

/-- The engine's fault codes, the values of `FAULT` (R25, R221). Code 7 is reserved and never written,
so it has no constructor. -/
inductive FaultCode where
  /-- 0: no fault has been recorded. -/
  | none
  /-- 1: reserved opcode, or a nonzero reserved or unused field (R83). -/
  | illegalCommand
  /-- 2: a command of a sub-block before its initialisation command (R23). -/
  | notInitialized
  /-- 3: a second PT_INIT or a second TLB_INIT (R23). -/
  | doubleInit
  /-- 4: TLB_READ_ENTRY with `IDX ≥ N` (R150). -/
  | indexRange
  /-- 5: TLB_INSERT would leave two valid entries with one VPN (R173). -/
  | duplicateVpn
  /-- 6: PT_UPDATE needs a new table and the pool is used up (R113). -/
  | resourceExhausted
  deriving DecidableEq, Repr

/-- The kind of a notification event (R200). -/
inductive EventKind where
  /-- `notify_reference_bit`. -/
  | ref
  /-- `notify_modify_bit`. -/
  | mod
  deriving DecidableEq, Repr

/-- One event `(kind, frame, bit)` sent to the bitmap owner (R31, R200). -/
structure Event where
  kind : EventKind
  frame : Pfn
  bit : Bool
  deriving DecidableEq, Repr

/-- The response of a completed command (R84). -/
inductive Response where
  /-- `RESP_NONE`: a command with no result. -/
  | respNone
  /-- The 64-bit response word of a command with a result. -/
  | word (w : Word64)
  deriving DecidableEq, Repr

/-- The storage of the second-level tables, all `1024 × 1024` PTEs (R28, R50): pairs of a key and a
32-bit word, the key of `PTE[i][j]` being the number `{i, j}`, which is the VPN (R55). Keys rise
strictly and no listed word is 0; an unlisted PTE reads as `0x00000000` (assumption 5). The block has
no byte-addressed memory, so its cells are whole words (R12, R56; assumption 4). -/
abbrev Memory := List (Nat × Word32)

/-- The state of the engine. The first block is R22's table, in its order; the second is the engine's
outputs; the third is the model's own. -/
structure State where
  /-- The configuration, fixed for the life of the instance; no command writes it (R32). -/
  cfg : Config
  /-- `PT_READY`: PT_INIT has completed (R23). -/
  ptReady : Bool
  /-- `L1A[0..1023]`: the first-level slots whose allocated bit is 1, rising (R27, R15). -/
  l1a : List TableIndex
  /-- `PTE[i][j]` (R28). -/
  pte : Memory
  /-- `L2_USED`: how many second-level tables are allocated (R29). -/
  l2Used : BitVec 11
  /-- `PAGE_FAULT`; `none` is the spec's own value *unset* (R24, D17). -/
  pageFault : Option Bool
  /-- `TLB_READY`: TLB_INIT has completed (R23). -/
  tlbReady : Bool
  /-- `W1[k]` and `W2[k]` for `k < N`, in index order (R30). -/
  tlb : List TlbEntry
  /-- `TLB_MISS`; `none` is the spec's own value *unset* (R24, D17). -/
  tlbMiss : Option Bool
  /-- `HAND`: the clock hand (R26). -/
  hand : BitVec 20
  /-- `FAULT`: the sticky fault code (R25, R223). -/
  fault : FaultCode
  /-- `NOTIFY`: the events sent since reset, oldest first (R31). -/
  notify : List Event
  /-- The responses of the completed commands, oldest first: the observation of the command port
  (R84, R254). -/
  responses : List Response
  /-- The model's own: the command words the driver has issued and the engine has not taken yet, next
  first (R4, R21, R64; assumption 1). -/
  input : List Word64
  /-- The model's own: how many draws have been made; the next one is `Config.draw20` of it (R12, R36;
  assumption 3). -/
  draws : Nat
  deriving DecidableEq, Repr

/-- What stops the machine. -/
inductive Fault where
  /-- Raised by every step and every command once `FAULT` is nonzero: the engine is halted and takes no
  further command (R223, `93_implementation_defined.md` I14: stuck). Safe: the spec gives the engine
  no step here. -/
  | halted
  deriving DecidableEq, Repr

/-- What the model has no meaning for. -/
inductive Refusal where
  /-- Raised by an arm of `exec` that has no meaning yet. Safe: nothing is claimed of the instruction. No
  arm of this model raises it. -/
  | notModelled (mnemonic : String)
  deriving DecidableEq, Repr

/-- The outcome of one command or one step. -/
abbrev Result := Host.Outcome State Fault Refusal

/-- `Reset(cfg)`: the power-on state of an instance (R35, R250, R256). `PT_READY`, `TLB_READY` and
`FAULT` are 0, the flags are unset and `NOTIFY` is empty, as R35 says. R35 leaves `L1A`, `PTE`,
`L2_USED`, `W1`, `W2` and `HAND` unspecified: here they are 0 (DESIGN CHOICE, assumption 5). -/
def State.resetOf (cfg : Config) : State where
  cfg := cfg
  ptReady := false
  l1a := []
  pte := []
  l2Used := 0
  pageFault := none
  tlbReady := false
  tlb := List.replicate cfg.n ⟨0, 0⟩
  tlbMiss := none
  hand := 0
  fault := .none
  notify := []
  responses := []
  input := []
  draws := 0

/-- The machine right after reset, for the standard configuration (R35; assumption 2). -/
def State.reset : State := State.resetOf Config.standard

end Sys2Proof.Machine
end

