-- ==== Sys2Proof/Machine/Operands.lean ====
section
/-! DEFINITION. The operand forms and entry formats: the split of a VPN into table indices (R55), and
the fields of a PTE (R52) and of the two TLB entry words (R53, R54), with the values the commands write
into them. -/

namespace Sys2Proof.Machine

/-- First-level index `l1(v) = v[19:10]` (R55). -/
def l1 (v : Vpn) : TableIndex := v.extractLsb' 10 10

/-- Second-level index `l2(v) = v[9:0]` (R55). -/
def l2 (v : Vpn) : TableIndex := v.extractLsb' 0 10

/-- `vpn = {l1, l2}` (R55). -/
def vpnOf (i j : TableIndex) : Vpn := i ++ j

/-- The key under which `PTE[l1(v)][l2(v)]` is stored: `{l1(v), l2(v)} = v` (R55). -/
def pteKey (v : Vpn) : Nat := v.toNat

/-- The first-level slot that owns the PTE stored under a key (R55: `vpn >> 10`). -/
def slotOfKey (a : Nat) : Nat := a / 1024

/-- The VPN of a 32-bit virtual address, `va[31:12]`. Informative: the driver's split, which no command
of the engine performs (R51). -/
def vpnOfAddress (va : BitVec 32) : Vpn := va.extractLsb' 12 20

/-- The physical address `{pfn, va[11:0]}` a driver builds outside the engine. Informative (R51). -/
def physicalAddress (f : Pfn) (va : BitVec 32) : BitVec 32 := f ++ va.extractLsb' 0 12

/-- P, bit 31 of a PTE: the entry maps its VPN (R52). -/
def ptePresent (w : Word32) : Bool := w.getLsbD 31

/-- FRAME, bits 19:0 of a PTE (R52). -/
def pteFrame (w : Word32) : Pfn := w.extractLsb' 0 20

/-- The unused bits 30:20 of a PTE (R52). -/
def pteUnused (w : Word32) : BitVec 11 := w.extractLsb' 20 11

/-- The PTE that PT_UPDATE installs: `0x80000000 | zext_32(pfn)` (R113). -/
def pteMapping (f : Pfn) : Word32 := 0x80000000#32 ||| f.setWidth 32

/-- The PTE that PT_CLEAR_ENTRY leaves: bit 31 cleared, bits 30:0 kept (R114). -/
def pteCleared (w : Word32) : Word32 := w &&& 0x7FFFFFFF#32

end Sys2Proof.Machine

namespace Sys2Proof

open Machine

/-- V, bit 31 of `W1` (R53). -/
def TlbEntry.valid (e : TlbEntry) : Bool := e.w1.getLsbD 31

/-- VPN, bits 19:0 of `W1` (R53). -/
def TlbEntry.vpn (e : TlbEntry) : Vpn := e.w1.extractLsb' 0 20

/-- The unused bits 30:20 of `W1` (R53). -/
def TlbEntry.unused1 (e : TlbEntry) : BitVec 11 := e.w1.extractLsb' 20 11

/-- R, bit 31 of `W2` (R54). -/
def TlbEntry.referenced (e : TlbEntry) : Bool := e.w2.getLsbD 31

/-- M, bit 30 of `W2` (R54). -/
def TlbEntry.modified (e : TlbEntry) : Bool := e.w2.getLsbD 30

/-- The unused bits 29:20 of `W2` (R54). -/
def TlbEntry.unused2 (e : TlbEntry) : BitVec 10 := e.w2.extractLsb' 20 10

/-- PFN, bits 19:0 of `W2` (R54). -/
def TlbEntry.pfn (e : TlbEntry) : Pfn := e.w2.extractLsb' 0 20

/-- The entry is valid and caches a translation of `v` (R61, R142). -/
def TlbEntry.holds (v : Vpn) (e : TlbEntry) : Bool := e.valid && e.vpn == v

/-- The entry's VPN field is `v`, whether or not it is valid (R146, D38). -/
def TlbEntry.namesVpn (v : Vpn) (e : TlbEntry) : Bool := e.vpn == v

/-- A candidate of the victim scan: not valid or not referenced (R15, R171). -/
def TlbEntry.candidate (e : TlbEntry) : Bool := !e.valid || !e.referenced

/-- The entry with `W1[31]` cleared and every other bit kept (R144, R146). -/
def TlbEntry.invalidated (e : TlbEntry) : TlbEntry := { e with w1 := e.w1 &&& 0x7FFFFFFF#32 }

/-- The entry with `W2[31]` cleared and every other bit kept (R145). -/
def TlbEntry.unreferenced (e : TlbEntry) : TlbEntry := { e with w2 := e.w2 &&& 0x7FFFFFFF#32 }

/-- The bits of `W2` that a hit sets: R always, M for a store only (R142). -/
def hitBits : Access → Word32
  | .load => 0x80000000#32
  | .store => 0xC0000000#32

/-- The entry after a hit of the given access kind (R142). -/
def TlbEntry.touched (op : Access) (e : TlbEntry) : TlbEntry := { e with w2 := e.w2 ||| hitBits op }

/-- The entry that TLB_INSERT writes: both words whole, unused bits 0 (R170 FILL, R174). -/
def TlbEntry.filled (v : Vpn) (f : Pfn) (m r : Bool) : TlbEntry where
  w1 := 0x80000000#32 ||| v.setWidth 32
  w2 := ((BitVec.ofBool r).setWidth 32 <<< 31) ||| ((BitVec.ofBool m).setWidth 32 <<< 30) |||
    f.setWidth 32

end Sys2Proof
end

