-- ==== Sys2Proof/Machine/Flags.lean ====
section
/-! DEFINITION. The two flags and the response words that carry them (R24, R84). These are the only
flags of the block (R13). -/

namespace Sys2Proof.Machine

/-- `PAGE_FAULT <- b` (R112, R24). -/
def State.setPageFault (s : State) (b : Bool) : State := { s with pageFault := some b }

/-- `TLB_MISS <- b` (R142, R143, R24). -/
def State.setTlbMiss (s : State) (b : Bool) : State := { s with tlbMiss := some b }

/-- The response of a successful translation: PFN in bits 19:0, flag bit 32 clear (R84). -/
def respFound (f : Pfn) : Word64 := f.setWidth 64

/-- The response of a page fault or a miss: flag bit 32 set, the draw in bits 19:0 (R84, R112, R142). -/
def respAbsent (d : Pfn) : Word64 := 0x100000000#64 ||| d.setWidth 64

/-- PT_READ_PTE of an unallocated slot: `L2_ABSENT`, bit 33 (R84, R115). -/
def respL2Absent : Word64 := 0x200000000#64

/-- PT_READ_PTE of an allocated slot: the raw PTE in bits 31:0 (R84, R115). -/
def respPte (w : Word32) : Word64 := w.setWidth 64

/-- TLB_READ_ENTRY: `{W2, W1}` (R84, R150). -/
def respEntry (e : TlbEntry) : Word64 := e.w2 ++ e.w1

/-- TLB_READ_HAND: `zext_64(HAND)` (R84, R151). -/
def respHand (h : BitVec 20) : Word64 := h.setWidth 64

end Sys2Proof.Machine
end

