-- ==== Sys2Proof/Machine/Ops.lean ====
section
/-! DEFINITION. The shared operations: reading and writing PTE storage, the two translations, ending a
command with a response or a fault, the checks that come before every command, notification, the victim
choice, and taking the driver's next command word. -/

namespace Sys2Proof.Machine

/-! ### PTE storage -/

/-- What an unlisted PTE reads as (assumption 5). -/
def unlistedPte : Word32 := 0

/-- The word stored under a key. -/
def Memory.read (m : Memory) (a : Nat) : Word32 :=
  match m with
  | [] => unlistedPte
  | (b, w) :: rest => if b = a then w else Memory.read rest a

/-- The storage without a key, which then reads as an unlisted PTE does. -/
def Memory.erase (m : Memory) (a : Nat) : Memory := m.filter fun c => c.1 != a

/-- A listed pair put at its place in the rising order of keys. -/
def Memory.place (m : Memory) (a : Nat) (w : Word32) : Memory :=
  match m with
  | [] => [(a, w)]
  | (b, x) :: rest => if b < a then (b, x) :: Memory.place rest a w else (a, w) :: (b, x) :: rest

/-- One whole-word write (R56); writing what an unlisted PTE reads as removes the entry. -/
def Memory.write (m : Memory) (a : Nat) (w : Word32) : Memory :=
  if w = unlistedPte then m.erase a else (m.erase a).place a w

/-- `for jj in 0 .. 1023: PTE[i][jj] <- 0x00000000` (R113). -/
def Memory.zeroTable (m : Memory) (i : TableIndex) : Memory :=
  m.filter fun c => slotOfKey c.1 != i.toNat

/-- The canonical form: keys rise strictly, every key is a VPN, and no listed word is what an unlisted
PTE reads as. -/
def Memory.wf : Memory → Bool
  | [] => true
  | [(a, w)] => decide (a < 2 ^ 20) && w != unlistedPte
  | (a, w) :: (b, x) :: rest => decide (a < b) && w != unlistedPte && Memory.wf ((b, x) :: rest)

/-- `PTE[l1(v)][l2(v)]` (R52, R55). -/
def State.pteAt (s : State) (v : Vpn) : Word32 := s.pte.read (pteKey v)

/-- `PTE[l1(v)][l2(v)] <- w` (R113, R114). -/
def State.setPteAt (s : State) (v : Vpn) (w : Word32) : State :=
  { s with pte := s.pte.write (pteKey v) w }

/-- `L1A[i] <- 1`: the slot put at its place among the allocated ones, once (R27). -/
def setSlot (l : List TableIndex) (i : TableIndex) : List TableIndex :=
  match l with
  | [] => [i]
  | j :: rest => if j < i then j :: setSlot rest i else if j = i then j :: rest else i :: j :: rest

/-- `L1A[i] = 1` (R27). -/
def State.slotAllocated (s : State) (i : TableIndex) : Bool := s.l1a.contains i

/-- The first-level slot that owns `v`'s PTE is allocated (R27, R55). -/
def State.allocated (s : State) (v : Vpn) : Bool := s.slotAllocated (l1 v)

/-- Allocating the second-level table of slot `i`: zero it, `L1A[i] <- 1`, `L2_USED <- L2_USED + 1`
(R113). -/
def State.allocateTable (s : State) (i : TableIndex) : State :=
  { s with
    pte := s.pte.zeroTable i
    l1a := setSlot s.l1a i
    l2Used := s.l2Used + 1 }

/-- The pool has no table left: `L2_USED = L2_POOL` (R113). -/
def State.poolUsedUp (s : State) : Bool := s.l2Used.toNat == s.cfg.l2Pool

/-! ### The two translations -/

/-- The page-table translation of a VPN (R60): its frame, or none for a page fault. -/
def State.ptTranslate (s : State) (v : Vpn) : Option Pfn :=
  if s.allocated v && ptePresent (s.pteAt v) then some (pteFrame (s.pteAt v)) else none

/-- The index of the lowest-index valid entry that holds a VPN (R61, R142). -/
def State.tlbFind (s : State) (v : Vpn) : Option Nat := s.tlb.findIdx? (TlbEntry.holds v)

/-- Entry `k` of the TLB. Every `k < N` is listed; an index past the list reads as an all-zero, hence
invalid, entry (no command reads one while the array has its `N` entries). -/
def State.entry (s : State) (k : Nat) : TlbEntry := s.tlb.getD k ⟨0, 0⟩

/-- The TLB translation of a VPN (R61): the cached frame, or none for a miss. -/
def State.tlbTranslate (s : State) (v : Vpn) : Option Pfn :=
  (s.tlbFind v).map fun k => (s.entry k).pfn

/-! ### Ending a command -/

/-- `respond`: the command completes and its response is delivered (R12, R84). -/
def complete (r : Response) (s : State) : Result := .next { s with responses := s.responses ++ [r] }

/-- `raise Fault(reason)`: the command is refused; only `FAULT` is written, nothing is sent and nothing
is answered (R12, R221, R222). This is the only exception entry of the block: it saves no state, changes
no mode and jumps nowhere, and there is no return from it (R220, R227, R228). -/
def raise (c : FaultCode) (s : State) : Result := .next { s with fault := c }

/-- The next draw's value (R12, D16). -/
def State.drawn (s : State) : Pfn := Config.draw20 s.draws

/-- Completing with an absent translation: the flag bit and a draw in the PFN field (R84). -/
def completeAbsent (s : State) : Result :=
  complete (.word (respAbsent s.drawn)) { s with draws := s.draws + 1 }

/-! ### Checks before a command -/

/-- `FAULT ≠ 0`: the engine has stopped (R223). -/
def State.halted (s : State) : Bool := s.fault != .none

/-- A halted engine takes no command at all (R223, R224 priority 1). -/
def unlessHalted (s : State) (body : Result) : Result := if s.halted then .fault .halted else body

/-- The check before every page-table command but PT_INIT (R110). -/
def ptCommand (s : State) (body : Result) : Result :=
  unlessHalted s (if s.ptReady then body else raise .notInitialized s)

/-- The check before every TLB command but TLB_INIT (R140). -/
def tlbCommand (s : State) (body : Result) : Result :=
  unlessHalted s (if s.tlbReady then body else raise .notInitialized s)

/-- A word that is no command faults ILLEGAL_COMMAND, unless the engine has stopped (R83, R224). -/
def illegalCommand (s : State) : Result := unlessHalted s (raise .illegalCommand s)

/-! ### Notification and write-back -/

/-- The 3-bit value of a fault code in the `FAULT` register (R25). -/
def FaultCode.bits : FaultCode → BitVec 3
  | .none => 0
  | .illegalCommand => 1
  | .notInitialized => 2
  | .doubleInit => 3
  | .indexRange => 4
  | .duplicateVpn => 5
  | .resourceExhausted => 6

/-- The KIND bit of an event (R85). -/
def EventKind.bit : EventKind → BitVec 1
  | .ref => 0
  | .mod => 1

/-- The 32-bit event word: `(kind << 28) | (bit << 24) | frame` (R85). -/
def Event.word (e : Event) : Word32 :=
  (e.kind.bit.setWidth 32 <<< 28) ||| ((BitVec.ofBool e.bit).setWidth 32 <<< 24) |||
    e.frame.setWidth 32

/-- The write-back of one entry: REF then MOD with its cached frame if it is valid, else nothing (R201,
R202, D8). -/
def writeBackEvents (e : TlbEntry) : List Event :=
  if e.valid then [⟨.ref, e.pfn, e.referenced⟩, ⟨.mod, e.pfn, e.modified⟩] else []

/-- `Notify`, for each event in order (R12, R200). -/
def State.sendEvents (s : State) (es : List Event) : State := { s with notify := s.notify ++ es }

/-! ### The clock hand -/

/-- The victim of TLB_INSERT: the first candidate from the hand to the end, with no wrap (R171), else the
entry at the hand (R172). -/
def State.victim (s : State) : Nat :=
  match (s.tlb.drop s.hand.toNat).findIdx? TlbEntry.candidate with
  | some k => s.hand.toNat + k
  | none => s.hand.toNat

/-- `exists j < N, j ≠ v: W1[j][31] = 1 and W1[j][19:0] = vpn` (R173). -/
def State.heldElsewhere (s : State) (v : Nat) (vpn : Vpn) : Bool :=
  (s.tlb.eraseIdx v).any (TlbEntry.holds vpn)

/-- `HAND <- (v + 1) mod N` (R175). -/
def State.handAfter (s : State) (v : Nat) : BitVec 20 := BitVec.ofNat 20 ((v + 1) % s.cfg.n)

/-! ### The command port -/

/-- The driver's next command word, if it has issued one, and the state with that word taken (R4, R64). -/
def State.fetch (s : State) : Option (Word64 × State) :=
  match s.input with
  | [] => none
  | w :: rest => some (w, { s with input := rest })

end Sys2Proof.Machine
end

