-- ==== Sys2Proof/Machine/ClockEviction.lean ====
section
/-! DEFINITION. TLB_INSERT (tlb_clock_eviction_fsm, R170 to R177): its meaning as one atomic command, and
the small state machine of R177 that performs the same work phase by phase. -/

namespace Sys2Proof.Machine

/-- The write-back, fill and advance of TLB_INSERT at victim `v` (R170, R174, R175, R201). -/
def State.evictAndFill (s : State) (v : Nat) (vpn : Vpn) (pfn : Pfn) (m r : Bool) : State :=
  { s.sendEvents (writeBackEvents (s.entry v)) with
    tlb := s.tlb.set v (TlbEntry.filled vpn pfn m r)
    hand := s.handAfter v }

/-- TLB_INSERT (R170): scan, fallback, uniqueness check, write-back, fill, advance. -/
def execTlbInsert (vpn : Vpn) (pfn : Pfn) (m r : Bool) (s : State) : Result :=
  tlbCommand s
    (if s.cfg.checkUnique && s.heldElsewhere s.victim vpn then raise .duplicateVpn s
     else complete .respNone (s.evictAndFill s.victim vpn pfn m r))

/-- The phases of R177. `scan k` looks at entry `k`; `check`, `writeBack`, `fill` and `advance` carry the
victim. -/
inductive InsertPhase where
  | scan (k : Nat)
  | check (v : Nat)
  | writeBack (v : Nat)
  | fill (v : Nat)
  | advance (v : Nat)
  | done
  | faulted
  deriving DecidableEq, Repr

/-- One transition of the state machine of R177. SCAN moves to CHECK at the first candidate, or with
`v = HAND` once `k` reaches `N`; WB emits REF then MOD of a valid victim; `done` and `faulted` are
final. The phases are not separately observable (R7, D1): `execTlbInsert` is the command. -/
def insertPhaseStep (vpn : Vpn) (pfn : Pfn) (m r : Bool) : InsertPhase × State → InsertPhase × State
  | (.scan k, s) =>
      if s.cfg.n ≤ k then (.check s.hand.toNat, s)
      else if (s.entry k).candidate then (.check k, s)
      else (.scan (k + 1), s)
  | (.check v, s) =>
      if s.cfg.checkUnique && s.heldElsewhere v vpn then
        (.faulted, { s with fault := .duplicateVpn })
      else (.writeBack v, s)
  | (.writeBack v, s) => (.fill v, s.sendEvents (writeBackEvents (s.entry v)))
  | (.fill v, s) => (.advance v, { s with tlb := s.tlb.set v (TlbEntry.filled vpn pfn m r) })
  | (.advance v, s) =>
      (.done, { s with hand := s.handAfter v, responses := s.responses ++ [.respNone] })
  | (.done, s) => (.done, s)
  | (.faulted, s) => (.faulted, s)

/-- A number of transitions of the state machine of R177. -/
def insertPhaseRun (vpn : Vpn) (pfn : Pfn) (m r : Bool) :
    Nat → InsertPhase × State → InsertPhase × State
  | 0, c => c
  | fuel + 1, c => insertPhaseRun vpn pfn m r fuel (insertPhaseStep vpn pfn m r c)

end Sys2Proof.Machine
end

