-- ==== Sys2Proof/Machine/PageTable.lean ====
section
/-! DEFINITION. The page-table commands (page_table_radix_tree, R110 to R115). None reads or writes TLB
state, `TLB_MISS` or `NOTIFY` (R3, R110). -/

namespace Sys2Proof.Machine

/-- PT_INIT (R111). `PTE` is not touched. -/
def execPtInit (s : State) : Result :=
  unlessHalted s
    (if s.ptReady then raise .doubleInit s
     else complete .respNone { s with l1a := [], l2Used := 0, ptReady := true })

/-- PT_GET_FRAME (R112): `PAGE_FAULT` is written always, nothing else of the engine. -/
def execPtGetFrame (vpn : Vpn) (s : State) : Result :=
  ptCommand s
    (match s.ptTranslate vpn with
     | some f => complete (.word (respFound f)) (s.setPageFault false)
     | none => completeAbsent (s.setPageFault true))

/-- PT_UPDATE (R113): the table is allocated if its slot has none, then the PTE is replaced whole. -/
def execPtUpdate (vpn : Vpn) (pfn : Pfn) (s : State) : Result :=
  ptCommand s
    (if s.allocated vpn then complete .respNone (s.setPteAt vpn (pteMapping pfn))
     else if s.poolUsedUp then raise .resourceExhausted s
     else complete .respNone ((s.allocateTable (l1 vpn)).setPteAt vpn (pteMapping pfn)))

/-- PT_CLEAR_ENTRY (R114): bit 31 of the PTE is cleared, or nothing is done if the slot has no table. -/
def execPtClearEntry (vpn : Vpn) (s : State) : Result :=
  ptCommand s
    (complete .respNone
      (if s.allocated vpn then s.setPteAt vpn (pteCleared (s.pteAt vpn)) else s))

/-- PT_READ_PTE (R115). -/
def execPtReadPte (vpn : Vpn) (s : State) : Result :=
  ptCommand s
    (complete (.word (if s.allocated vpn then respPte (s.pteAt vpn) else respL2Absent)) s)

end Sys2Proof.Machine
end

