-- ==== Sys2Proof/Machine/Tlb.lean ====
section
/-! DEFINITION. The TLB commands other than insertion and write-back (tlb_direct_cache, R140 to R151).
None reads or writes page-table state or `PAGE_FAULT` (R3, R140). -/

namespace Sys2Proof.Machine

/-- TLB_INIT (R141): every entry from `TLB_INIT_CONTENTS` with its valid bit cleared, `HAND <- 0`. -/
def execTlbInit (s : State) : Result :=
  unlessHalted s
    (if s.tlbReady then raise .doubleInit s
     else complete .respNone
      { s with tlb := s.cfg.tlbInitContents.map TlbEntry.invalidated, hand := 0, tlbReady := true })

/-- TLB_LOOKUP (R142, R143): the lowest-index match is marked used and answers its frame; a miss changes
nothing but the flag. -/
def execTlbLookup (vpn : Vpn) (op : Access) (s : State) : Result :=
  tlbCommand s
    (match s.tlbFind vpn with
     | some k =>
        complete (.word (respFound (s.entry k).pfn))
          { s.setTlbMiss false with tlb := s.tlb.modify k (TlbEntry.touched op) }
     | none => completeAbsent (s.setTlbMiss true))

/-- TLB_CLEAR_ALL (R144). -/
def execTlbClearAll (s : State) : Result :=
  tlbCommand s (complete .respNone { s with tlb := s.tlb.map TlbEntry.invalidated })

/-- TLB_CLEAR_ALL_REF (R145). -/
def execTlbClearAllRef (s : State) : Result :=
  tlbCommand s (complete .respNone { s with tlb := s.tlb.map TlbEntry.unreferenced })

/-- TLB_CLEAR_ENTRY (R146): every entry whose VPN field matches, not only the first. -/
def execTlbClearEntry (vpn : Vpn) (s : State) : Result :=
  tlbCommand s
    (complete .respNone
      { s with tlb := s.tlb.map fun e => if e.namesVpn vpn then e.invalidated else e })

/-- TLB_READ_ENTRY (R150). -/
def execTlbReadEntry (idx : TlbIndex) (s : State) : Result :=
  tlbCommand s
    (if s.cfg.n ≤ idx.toNat then raise .indexRange s
     else complete (.word (respEntry (s.entry idx.toNat))) s)

/-- TLB_READ_HAND (R151). -/
def execTlbReadHand (s : State) : Result :=
  tlbCommand s (complete (.word (respHand s.hand)) s)

end Sys2Proof.Machine
end

