-- ==== Sys2Proof/Machine/WriteBack.lean ====
section
/-! DEFINITION. TLB_WRITE_BACK (tlb_ref_modify_write_back, R202). -/

namespace Sys2Proof.Machine

/-- TLB_WRITE_BACK (R202): for every valid entry in ascending index order, REF then MOD; no entry is
changed. -/
def execTlbWriteBack (s : State) : Result :=
  tlbCommand s (complete .respNone (s.sendEvents (s.tlb.flatMap writeBackEvents)))

end Sys2Proof.Machine
end

