-- ==== Sys2Proof/Machine/Dispatch.lean ====
section
/-! DEFINITION. One arm per command of the opcode table (R82). -/

namespace Sys2Proof.Machine

def exec (i : Instr) (s : State) : Host.Outcome State Fault Refusal :=
  match i with
  | .ptInit => Sys2Proof.Machine.execPtInit s
  | .ptGetFrame vpn => Sys2Proof.Machine.execPtGetFrame vpn s
  | .ptUpdate vpn pfn => Sys2Proof.Machine.execPtUpdate vpn pfn s
  | .ptClearEntry vpn => Sys2Proof.Machine.execPtClearEntry vpn s
  | .tlbInit => Sys2Proof.Machine.execTlbInit s
  | .tlbLookup vpn op => Sys2Proof.Machine.execTlbLookup vpn op s
  | .tlbInsert vpn pfn m r => Sys2Proof.Machine.execTlbInsert vpn pfn m r s
  | .tlbClearAll => Sys2Proof.Machine.execTlbClearAll s
  | .tlbClearAllRef => Sys2Proof.Machine.execTlbClearAllRef s
  | .tlbClearEntry vpn => Sys2Proof.Machine.execTlbClearEntry vpn s
  | .tlbWriteBack => Sys2Proof.Machine.execTlbWriteBack s
  | .ptReadPte vpn => Sys2Proof.Machine.execPtReadPte vpn s
  | .tlbReadEntry idx => Sys2Proof.Machine.execTlbReadEntry idx s
  | .tlbReadHand => Sys2Proof.Machine.execTlbReadHand s

end Sys2Proof.Machine
end

