-- ==== Sys2Proof/Machine/Step.lean ====
section
/-! DEFINITION. One step of the engine: it takes one command word from the driver and performs the
command to completion (R7, R64). -/

namespace Sys2Proof.Machine

/-- One step. With no command waiting the engine is idle and keeps all state (R236, R250); a halted
engine has no step (R223); a word that is no command faults ILLEGAL_COMMAND (R83); every other word runs
its command to completion (R7, R86). -/
def step (s : State) : Host.Outcome State Fault Refusal :=
  match s.fetch with
  | none => unlessHalted s (.next s)
  | some (w, t) =>
    match decode w with
    | .ok i => exec i t
    | .error _ => illegalCommand t

/-- The state with a command word put at the head of the driver's sequence, where the next step takes
it. -/
def State.withFetchWord (s : State) (nbits w : Nat) : State :=
  { s with input := tableWord nbits w :: s.input }

end Sys2Proof.Machine
end

