-- ==== Sys2Proof/WellFormed.lean ====
section
/-! DEFINITION. What is well-formed: an instance's parameters (R9) and an assembler line's operands
(R88). A decoded `Instr` needs no check, because each operand has exactly its field's width (R80). -/

namespace Sys2Proof

/-- The check of R9 on the parameters an instance is to be built with. `N = 0` and `N > 2^20`,
`L2_POOL = 0` and `L2_POOL > 1024`, and contents that do not give one entry for each `k < N` are
refused (`93_implementation_defined.md` I8, I9). -/
def instanceWellFormed (n l2Pool : Nat) (contents : List TlbEntry) : Bool :=
  decide (1 ≤ n) && decide (n ≤ 2 ^ 20) && decide (1 ≤ l2Pool) && decide (l2Pool ≤ 1024) &&
    decide (contents.length = n)

/-- A VPN, PFN or IDX operand is `0 .. 0xFFFFF` (R88, D2). -/
def pageOperandInRange (v : Nat) : Bool := decide (v < 2 ^ 20)

/-- An M or R operand is 0 or 1 (R88). -/
def bitOperandInRange (b : Nat) : Bool := decide (b < 2)

/-- The operand checks of R88, for commands and pseudo-instructions alike; a line that fails them is an
assembly error and never produces a word. -/
def SourceLine.wellFormed : SourceLine → Bool
  | .ptInit => true
  | .ptGetFrame v => pageOperandInRange v
  | .ptUpdate v f => pageOperandInRange v && pageOperandInRange f
  | .ptClearEntry v => pageOperandInRange v
  | .tlbInit => true
  | .tlbLookup v _ => pageOperandInRange v
  | .tlbInsert v f m r =>
      pageOperandInRange v && pageOperandInRange f && bitOperandInRange m && bitOperandInRange r
  | .tlbClearAll => true
  | .tlbClearAllRef => true
  | .tlbClearEntry v => pageOperandInRange v
  | .tlbWriteBack => true
  | .ptReadPte v => pageOperandInRange v
  | .tlbReadEntry k => pageOperandInRange k
  | .tlbReadHand => true
  | .tlbRefill v f m r =>
      pageOperandInRange v && pageOperandInRange f && bitOperandInRange m && bitOperandInRange r
  | .unmap v => pageOperandInRange v
  | .remap v f => pageOperandInRange v && pageOperandInRange f
  | .tlbFlush => true

end Sys2Proof
end

