-- ==== Sys2Proof/Machine/Assembler.lean ====
section
/-! DEFINITION. The assembler of R88 and R89: a line of text is read into a `SourceLine`, its operands are
checked, and it produces the words of its command, or of the commands its pseudo-instruction stands for.
It runs on the driver's side; nothing in it is state of the engine. -/

namespace Sys2Proof.Machine

/-- Why a line produces no word (R88). -/
inductive AssemblyError where
  /-- The line is not a mnemonic followed by its operands. -/
  | badLine
  /-- An operand is outside its range: an assembly error, it never produces a word. -/
  | operandOutOfRange
  deriving DecidableEq, Repr

/-- A VPN, PFN or IDX operand as its field holds it. -/
def pageField (v : Nat) : BitVec 20 := BitVec.ofNat 20 v

/-- An M or R operand as its field holds it. -/
def bitField (b : Nat) : Bool := b == 1

/-- The commands a line stands for, in order: itself, or the expansion of R89. -/
def expandLine : SourceLine → List Instr
  | .ptInit => [.ptInit]
  | .ptGetFrame v => [.ptGetFrame (pageField v)]
  | .ptUpdate v f => [.ptUpdate (pageField v) (pageField f)]
  | .ptClearEntry v => [.ptClearEntry (pageField v)]
  | .tlbInit => [.tlbInit]
  | .tlbLookup v op => [.tlbLookup (pageField v) op]
  | .tlbInsert v f m r => [.tlbInsert (pageField v) (pageField f) (bitField m) (bitField r)]
  | .tlbClearAll => [.tlbClearAll]
  | .tlbClearAllRef => [.tlbClearAllRef]
  | .tlbClearEntry v => [.tlbClearEntry (pageField v)]
  | .tlbWriteBack => [.tlbWriteBack]
  | .ptReadPte v => [.ptReadPte (pageField v)]
  | .tlbReadEntry k => [.tlbReadEntry (pageField k)]
  | .tlbReadHand => [.tlbReadHand]
  | .tlbRefill v f m r =>
      [.tlbClearEntry (pageField v), .tlbInsert (pageField v) (pageField f) (bitField m) (bitField r)]
  | .unmap v => [.ptClearEntry (pageField v), .tlbClearEntry (pageField v)]
  | .remap v f => [.ptUpdate (pageField v) (pageField f), .tlbClearEntry (pageField v)]
  | .tlbFlush => [.tlbWriteBack, .tlbClearAll]

/-- The words of a line (R88, R89). -/
def assembleLine (l : SourceLine) : Except AssemblyError (List Word64) :=
  if l.wellFormed then .ok ((expandLine l).map encode) else .error .operandOutOfRange

/-! ### Reading a line of text

Characters that separate (blank, tab, carriage return) and the case of hexadecimal digits are not said by
R88 (assumption 9). -/

/-- A character that only separates. -/
def isBlank (c : Char) : Bool := c == ' ' || c == '\t' || c == '\r'

/-- The text without the blanks around it. -/
def trimBlanks (cs : List Char) : List Char :=
  ((cs.dropWhile isBlank).reverse.dropWhile isBlank).reverse

/-- The text before a comment, which starts at `;` (R88). -/
def beforeComment (cs : List Char) : List Char := cs.takeWhile fun c => c != ';'

/-- The text cut at its commas (R88). -/
def splitCommas : List Char → List (List Char)
  | [] => [[]]
  | c :: cs =>
    if c == ',' then [] :: splitCommas cs
    else match splitCommas cs with
      | part :: parts => (c :: part) :: parts
      | [] => [[c]]

/-- The value of a digit in a base of at most sixteen. -/
def digitValue (base : Nat) (c : Char) : Option Nat :=
  let v := if '0' ≤ c ∧ c ≤ '9' then c.toNat - '0'.toNat
    else if 'a' ≤ c ∧ c ≤ 'f' then c.toNat - 'a'.toNat + 10
    else if 'A' ≤ c ∧ c ≤ 'F' then c.toNat - 'A'.toNat + 10
    else base
  if v < base then some v else none

/-- The number written by digits after `acc` has been read. -/
def digitsValue (base : Nat) : Nat → List Char → Option Nat
  | acc, [] => some acc
  | acc, c :: cs =>
    match digitValue base c with
    | some d => digitsValue base (acc * base + d) cs
    | none => none

/-- A number is decimal or `0x` hexadecimal (R88). -/
def readNumber : List Char → Option Nat
  | [] => none
  | '0' :: 'x' :: c :: cs => digitsValue 16 0 (c :: cs)
  | c :: cs => digitsValue 10 0 (c :: cs)

/-- The access kind is the word `LOAD` or `STORE` (R88). -/
def readAccess (cs : List Char) : Option Access :=
  if cs = "LOAD".toList then some .load else if cs = "STORE".toList then some .store else none

/-- A line without operands. -/
def lineOf0 (l : SourceLine) : List (List Char) → Option SourceLine
  | [] => some l
  | _ => none

/-- A line with one number. -/
def lineOf1 (f : Nat → SourceLine) : List (List Char) → Option SourceLine
  | [a] => (readNumber a).map f
  | _ => none

/-- A line with two numbers. -/
def lineOf2 (f : Nat → Nat → SourceLine) : List (List Char) → Option SourceLine
  | [a, b] => (readNumber a).bind fun x => (readNumber b).map (f x)
  | _ => none

/-- A line with four numbers. -/
def lineOf4 (f : Nat → Nat → Nat → Nat → SourceLine) : List (List Char) → Option SourceLine
  | [a, b, c, d] =>
      (readNumber a).bind fun x => (readNumber b).bind fun y =>
        (readNumber c).bind fun z => (readNumber d).map (f x y z)
  | _ => none

/-- A TLB_LOOKUP line: a number and an access kind. -/
def lineOfLookup : List (List Char) → Option SourceLine
  | [a, b] => (readNumber a).bind fun x => (readAccess b).map (SourceLine.tlbLookup x)
  | _ => none

/-- The line of a mnemonic and its operand texts (R88, R89). -/
def readCommand (m : List Char) (ops : List (List Char)) : Option SourceLine :=
  if m = "PT_INIT".toList then lineOf0 .ptInit ops
  else if m = "PT_GET_FRAME".toList then lineOf1 .ptGetFrame ops
  else if m = "PT_UPDATE".toList then lineOf2 .ptUpdate ops
  else if m = "PT_CLEAR_ENTRY".toList then lineOf1 .ptClearEntry ops
  else if m = "TLB_INIT".toList then lineOf0 .tlbInit ops
  else if m = "TLB_LOOKUP".toList then lineOfLookup ops
  else if m = "TLB_INSERT".toList then lineOf4 .tlbInsert ops
  else if m = "TLB_CLEAR_ALL".toList then lineOf0 .tlbClearAll ops
  else if m = "TLB_CLEAR_ALL_REF".toList then lineOf0 .tlbClearAllRef ops
  else if m = "TLB_CLEAR_ENTRY".toList then lineOf1 .tlbClearEntry ops
  else if m = "TLB_WRITE_BACK".toList then lineOf0 .tlbWriteBack ops
  else if m = "PT_READ_PTE".toList then lineOf1 .ptReadPte ops
  else if m = "TLB_READ_ENTRY".toList then lineOf1 .tlbReadEntry ops
  else if m = "TLB_READ_HAND".toList then lineOf0 .tlbReadHand ops
  else if m = "TLB_REFILL".toList then lineOf4 .tlbRefill ops
  else if m = "UNMAP".toList then lineOf1 .unmap ops
  else if m = "REMAP".toList then lineOf2 .remap ops
  else if m = "TLB_FLUSH".toList then lineOf0 .tlbFlush ops
  else none

/-- The words of one line of text: one command per line, a comment or a blank line produces none (R88). -/
def assembleText (text : List Char) : Except AssemblyError (List Word64) :=
  let body := trimBlanks (beforeComment text)
  if body = [] then .ok []
  else
    let operands := trimBlanks (body.dropWhile fun c => !isBlank c)
    let parts := if operands = [] then [] else (splitCommas operands).map trimBlanks
    match readCommand (body.takeWhile fun c => !isBlank c) parts with
    | some l => assembleLine l
    | none => .error .badLine

/-- The words of a program's lines, in order (R88, R89). -/
def assembleProgram : List (List Char) → Except AssemblyError (List Word64)
  | [] => .ok []
  | text :: texts =>
    match assembleText text, assembleProgram texts with
    | .ok ws, .ok rest => .ok (ws ++ rest)
    | .error e, _ => .error e
    | .ok _, .error e => .error e

end Sys2Proof.Machine
end

