-- ==== Sys2Proof/Safety.lean ====
section
/-! DEFINITION. The terms in which claims about the engine are stated: sequences of commands, the launch
premises and the end of a run (R254, R256), what a command leaves unchanged, the invariants of R34, which
states no driver can tell apart, and what a line of the assembler produces. -/

namespace Sys2Proof.Machine

/-! ### Commands and sequences of commands -/

/-- A command of the page-table sub-block (R2, R110). -/
def isPageTableCommand : Instr → Bool
  | .ptInit | .ptGetFrame _ | .ptUpdate _ _ | .ptClearEntry _ | .ptReadPte _ => true
  | .tlbInit | .tlbLookup _ _ | .tlbInsert _ _ _ _ | .tlbClearAll | .tlbClearAllRef
  | .tlbClearEntry _ | .tlbWriteBack | .tlbReadEntry _ | .tlbReadHand => false

/-- The commands given to the engine one after another, each run to completion (R64). It stops where a
command stops. -/
def runCommands : List Instr → State → Result
  | [], s => .next s
  | i :: is, s =>
    match exec i s with
    | .next t => runCommands is t
    | .fault f => .fault f
    | .refused r => .refused r

/-- `PT_UPDATE v` and `PT_CLEAR_ENTRY v`: the commands that end what an earlier update of `v` promised
(R116). -/
def changesMapping (v : Vpn) : Instr → Bool
  | .ptUpdate u _ => u == v
  | .ptClearEntry u => u == v
  | _ => false

/-- The command is a PT_UPDATE of `v` (R116). -/
def updatesVpn (v : Vpn) : Instr → Bool
  | .ptUpdate u _ => u == v
  | _ => false

/-- The command is a TLB_INSERT of `v` (R68, R148). -/
def insertsVpn (v : Vpn) : Instr → Bool
  | .tlbInsert u _ _ _ => u == v
  | _ => false

/-! ### Launch premises and the end of a run -/

/-- What R35 says of the state after power-on reset, whatever the parts it leaves unspecified hold. The
TLB array has its `N` entries (R30). -/
structure IsReset (cfg : Config) (s : State) : Prop where
  sameCfg : s.cfg = cfg
  ptReady : s.ptReady = false
  tlbReady : s.tlbReady = false
  fault : s.fault = .none
  notify : s.notify = []
  pageFault : s.pageFault = none
  tlbMiss : s.tlbMiss = none
  tlbLength : s.tlb.length = cfg.n

/-- `Ready(cfg)`: what R252 says of the state after reset and both initialisations (R256). -/
structure IsReady (cfg : Config) (s : State) : Prop where
  sameCfg : s.cfg = cfg
  ptReady : s.ptReady = true
  tlbReady : s.tlbReady = true
  l1a : ∀ i, s.slotAllocated i = false
  l2Used : s.l2Used = 0
  tlbLength : s.tlb.length = cfg.n
  w1Valid : ∀ k, k < cfg.n → (s.entry k).valid = false
  w1Rest : ∀ k, k < cfg.n →
    (s.entry k).w1.extractLsb' 0 31 = (cfg.tlbInitContents.getD k ⟨0, 0⟩).w1.extractLsb' 0 31
  w2 : ∀ k, k < cfg.n → (s.entry k).w2 = (cfg.tlbInitContents.getD k ⟨0, 0⟩).w2
  hand : s.hand = 0
  pageFault : s.pageFault = none
  tlbMiss : s.tlbMiss = none
  fault : s.fault = .none
  notify : s.notify = []

/-- A run has ended: the driver has no further command to issue and `FAULT = 0` (R254). -/
def Ended (s : State) : Prop := s.input = [] ∧ s.fault = .none

/-! ### What a command leaves unchanged -/

/-- The page-table sub-block is unchanged, every PTE included (R22). -/
structure SamePageTable (s t : State) : Prop where
  ptReady : t.ptReady = s.ptReady
  l1a : t.l1a = s.l1a
  pte : t.pte = s.pte
  pteAt : ∀ v, t.pteAt v = s.pteAt v
  l2Used : t.l2Used = s.l2Used
  pageFault : t.pageFault = s.pageFault

/-- The TLB and its clock hand are unchanged (R22). -/
structure SameTlb (s t : State) : Prop where
  tlbReady : t.tlbReady = s.tlbReady
  tlb : t.tlb = s.tlb
  tlbMiss : t.tlbMiss = s.tlbMiss
  hand : t.hand = s.hand

/-- The command completed with the response `r`: it is delivered after the earlier ones, `FAULT` and the
configuration are unchanged, and no command word is taken beyond its own (R12, R32, R64). -/
structure Completed (r : Response) (s t : State) : Prop where
  responses : t.responses = s.responses ++ [r]
  fault : t.fault = s.fault
  cfg : t.cfg = s.cfg
  input : t.input = s.input

/-- Nothing was sent to the bitmap owner (R31). -/
def SentNothing (s t : State) : Prop := t.notify = s.notify

/-- No draw was made (R12). -/
def DrewNothing (s t : State) : Prop := t.draws = s.draws

/-! ### Invariants (R34) -/

/-- The TLB array has its `N` entries (R30). -/
def TlbHasCapacity (s : State) : Prop := s.tlb.length = s.cfg.n

/-- R34 (a): `0 ≤ HAND < N` after TLB_INIT. -/
def HandInRange (s : State) : Prop := s.tlbReady = true → s.hand.toNat < s.cfg.n

/-- `|{ i : L1A[i] = 1 }|` (R29). -/
def allocatedSlots (s : State) : Nat :=
  (List.range 1024).countP fun i => s.slotAllocated (BitVec.ofNat 10 i)

/-- R34 (b): `L2_USED = |{ i : L1A[i] = 1 }| ≤ L2_POOL`, once PT_INIT has made them definite (R35). -/
def TablesCounted (s : State) : Prop :=
  s.ptReady = true → s.l2Used.toNat = allocatedSlots s ∧ allocatedSlots s ≤ s.cfg.l2Pool

/-- R34 (c): the unused bits of every PTE of an allocated slot are 0. -/
def PteUnusedZero (s : State) : Prop :=
  s.ptReady = true → ∀ v, s.allocated v = true → pteUnused (s.pteAt v) = 0

/-- R34 (e): at most one valid entry for a VPN. -/
def ValidVpnsUnique (s : State) : Prop :=
  ∀ j k v, (s.entry j).holds v = true → (s.entry k).holds v = true → j = k

/-- R34 (d), for one entry: its unused bits are 0. -/
def EntryUnusedZero (s : State) (k : Nat) : Prop :=
  (s.entry k).unused1 = 0 ∧ (s.entry k).unused2 = 0

/-- The canonical form of the PTE storage. -/
def StorageCanonical (s : State) : Prop := s.pte.wf = true

/-- Everything every command keeps: R34 (a), (b), (c), the array's size and the storage's form; and R34
(e) for an instance that checks uniqueness (R173). -/
structure Inv (s : State) : Prop where
  capacity : TlbHasCapacity s
  hand : HandInRange s
  counted : TablesCounted s
  unused : PteUnusedZero s
  canonical : StorageCanonical s
  unique : s.cfg.checkUnique = true → s.tlbReady = true → ValidVpnsUnique s

/-! ### The victim of TLB_INSERT -/

/-- `v` is the victim of R171 and R172: the first candidate from the hand to the end, or the hand itself
where there is none. -/
def IsVictim (s : State) (v : Nat) : Prop :=
  (s.hand.toNat ≤ v ∧ v < s.cfg.n ∧ (s.entry v).candidate = true ∧
      ∀ k, s.hand.toNat ≤ k → k < v → (s.entry k).candidate = false) ∨
    (v = s.hand.toNat ∧ ∀ k, s.hand.toNat ≤ k → k < s.cfg.n → (s.entry k).candidate = false)

/-- Some valid entry other than `v` holds `vpn` (R173). -/
def HeldElsewhere (s : State) (v : Nat) (vpn : Vpn) : Prop :=
  ∃ j, j < s.cfg.n ∧ j ≠ v ∧ (s.entry j).holds vpn = true

/-- The initialisation fault a command meets in a state, if any: NOT_INITIALIZED of a command whose
sub-block is not ready, DOUBLE_INIT of an initialisation command whose sub-block is (R23, R224). -/
def initFault (s : State) : Instr → Option FaultCode
  | .ptInit => if s.ptReady then some .doubleInit else none
  | .tlbInit => if s.tlbReady then some .doubleInit else none
  | .ptGetFrame _ | .ptUpdate _ _ | .ptClearEntry _ | .ptReadPte _ =>
      if s.ptReady then none else some .notInitialized
  | .tlbLookup _ _ | .tlbInsert _ _ _ _ | .tlbClearAll | .tlbClearAllRef | .tlbClearEntry _
  | .tlbWriteBack | .tlbReadEntry _ | .tlbReadHand =>
      if s.tlbReady then none else some .notInitialized

/-- The source's literal port of the lookup loop, which writes the miss flag on every iteration and
returns at the first match (R143, D10). The engine does not do this; R143 says that both give one flag
value for every `N ≥ 1`. -/
def literalMissFlag (v : Vpn) : List TlbEntry → Option Bool → Option Bool
  | [], flag => flag
  | e :: es, _ => if e.holds v then some false else literalMissFlag v es (some true)

/-! ### The two sub-blocks apart, and states no driver can tell apart -/

/-- `s` with the TLB sub-blocks' state of `r` (R22). -/
def State.withTlbOf (s r : State) : State :=
  { s with tlbReady := r.tlbReady, tlb := r.tlb, tlbMiss := r.tlbMiss, hand := r.hand }

/-- `s` with the page-table sub-block's state of `r` (R22). -/
def State.withPageTableOf (s r : State) : State :=
  { s with
    ptReady := r.ptReady, l1a := r.l1a, pte := r.pte, l2Used := r.l2Used, pageFault := r.pageFault }

/-- An outcome with a change made to its next state. -/
def mapNext (g : State → State) : Result → Result
  | .next t => .next (g t)
  | .fault f => .fault f
  | .refused r => .refused r

/-- Two states that differ at most in what R35 and R28 call unobservable: `L1A`, `PTE` and `L2_USED`
before PT_INIT, the PTEs of unallocated tables, and the TLB entries and `HAND` before TLB_INIT. -/
structure Indistinguishable (s t : State) : Prop where
  cfg : t.cfg = s.cfg
  ptReady : t.ptReady = s.ptReady
  tlbReady : t.tlbReady = s.tlbReady
  pageFault : t.pageFault = s.pageFault
  tlbMiss : t.tlbMiss = s.tlbMiss
  fault : t.fault = s.fault
  notify : t.notify = s.notify
  responses : t.responses = s.responses
  input : t.input = s.input
  draws : t.draws = s.draws
  l1a : s.ptReady = true → t.l1a = s.l1a
  l2Used : s.ptReady = true → t.l2Used = s.l2Used
  pteAt : s.ptReady = true → ∀ v, s.allocated v = true → t.pteAt v = s.pteAt v
  tlb : s.tlbReady = true → t.tlb = s.tlb
  hand : s.tlbReady = true → t.hand = s.hand

/-! ### What a line of the assembler produces (R88, R89) -/

/-- The line produces one word for each of these commands, in their order, and each word decodes to its
command. -/
def AssemblesTo (l : SourceLine) (is : List Instr) : Prop :=
  ∃ ws, assembleLine l = .ok ws ∧ ws.map decode = is.map .ok

/-- The line is an assembly error for an operand out of range, and produces no word. -/
def OutOfRange (l : SourceLine) : Prop := assembleLine l = .error .operandOutOfRange

end Sys2Proof.Machine
end

