-- ==== Sys2Proof/Certificates/Slice0/Obligations.lean ====
section
/-! DEFINITION. The statements for the provers. Each says which rule of the spec it formalises. Every
statement holds for every configuration (`s.cfg` is arbitrary), for every value of the free values, and
for every value the reset state could have had. -/

open Sys2Proof Sys2Proof.Machine

/-! ### Encoding -/

/-- R80, R82, R86: decoding an encoded command gives it back, for every value of every operand. -/
def Obligations.DecodeOfEncodeGivesCommandBack : Prop :=
  ∀ i : Instr, decode (encode i) = .ok i

/-- R86, R87: a legal word is the encoding of the command it decodes to, so the decoder is injective on
legal words. -/
def Obligations.LegalWordIsEncodingOfItsCommand : Prop :=
  (∀ (w : Word64) (i : Instr), decode w = .ok i → encode i = w) ∧
    ∀ (w₁ w₂ : Word64) (i : Instr), decode w₁ = .ok i → decode w₂ = .ok i → w₁ = w₂

/-- R83: a word is a command iff it meets `w & mask = match` of a row of the opcode table; OP 0xE and 0xF
and any 1 in bits 7, 31:28 and 63:52 are illegal; and an illegal word faults ILLEGAL_COMMAND, code 1,
and changes nothing else (it is taken from the driver's sequence). -/
def Obligations.IllegalWordsAreTheOnesOutsideTheTable : Prop :=
  (∀ w : Word64, (∃ i, decode w = .ok i) ↔ ∃ r ∈ opcodeTable, w &&& r.mask = r.pattern) ∧
  (∀ w : Word64, fieldOp w = 0xE ∨ fieldOp w = 0xF → ∀ i, decode w ≠ .ok i) ∧
  (∀ (w : Word64) (i : Instr), decode w = .ok i →
    w.getLsbD 7 = false ∧ w.extractLsb' 28 4 = 0 ∧ w.extractLsb' 52 12 = 0) ∧
  (∀ (s : State) (w : Word64) (rest : List Word64), s.fault = .none → s.input = w :: rest →
    (∀ i, decode w ≠ .ok i) →
    step s = .next { s with input := rest, fault := .illegalCommand }) ∧
  FaultCode.illegalCommand.bits = 1

/-- The words of `95_test_vectors.md` V-E-1, one for each opcode, decode to the commands they assemble
from (R82, R88). -/
def Obligations.SpecWordsDecodeToTheirCommands : Prop :=
  decode 0x0000000000000000 = .ok .ptInit ∧
  decode 0x0000000000040101 = .ok (.ptGetFrame 0x00401) ∧
  decode 0x000ABCDE01234502 = .ok (.ptUpdate 0x12345 0xABCDE) ∧
  decode 0x0000000001234503 = .ok (.ptClearEntry 0x12345) ∧
  decode 0x0000000000000004 = .ok .tlbInit ∧
  decode 0x0000000000000A05 = .ok (.tlbLookup 0x0000A .load) ∧
  decode 0x0000000000000B15 = .ok (.tlbLookup 0x0000B .store) ∧
  decode 0x0000001E00000326 = .ok (.tlbInsert 3 30 true false) ∧
  decode 0x000FFFFF0FFFFF66 = .ok (.tlbInsert 0xFFFFF 0xFFFFF true true) ∧
  decode 0x0000000000000007 = .ok .tlbClearAll ∧
  decode 0x0000000000000008 = .ok .tlbClearAllRef ∧
  decode 0x0000000000000A09 = .ok (.tlbClearEntry 0x0000A) ∧
  decode 0x000000000000000A = .ok .tlbWriteBack ∧
  decode 0x000000000123450B = .ok (.ptReadPte 0x12345) ∧
  decode 0x000000010000000C = .ok (.tlbReadEntry 1) ∧
  decode 0x000000000000000D = .ok .tlbReadHand

/-- R55: the table indices are the shift and the mask of the VPN, each below 1024, and the VPN is their
concatenation. -/
def Obligations.IndexSplitIsShiftAndMask : Prop :=
  ∀ v : Vpn, l1 v = v.extractLsb' 10 10 ∧ l2 v = v.extractLsb' 0 10 ∧
    (l1 v).toNat = v.toNat >>> 10 ∧ (l2 v).toNat = v.toNat &&& 0x3FF ∧
    (l1 v).toNat ≤ 1023 ∧ (l2 v).toNat ≤ 1023 ∧ vpnOf (l1 v) (l2 v) = v

/-- R85: the event word holds the frame in bits 19:0, the bit in bit 24, the kind in bit 28 (0 REF, 1 MOD)
and 0 elsewhere; it is `(kind << 28) | (bit << 24) | frame`; `notify_modify_bit(20, 1)` is
`0x11000014`. -/
def Obligations.EventWordHasItsFields : Prop :=
  (∀ e : Event, e.word.extractLsb' 0 20 = e.frame ∧ e.word.extractLsb' 20 4 = 0 ∧
    e.word.getLsbD 24 = e.bit ∧ e.word.extractLsb' 25 3 = 0 ∧
    e.word.getLsbD 28 = (e.kind == .mod) ∧ e.word.extractLsb' 29 3 = 0) ∧
  (∀ e : Event, e.word = ((e.kind.bit.setWidth 32) <<< 28) |||
    ((BitVec.ofBool e.bit).setWidth 32 <<< 24) ||| e.frame.setWidth 32) ∧
  (Event.mk .mod 20 true).word = 0x11000014

/-- R84: a found translation is the frame in bits 19:0 and 0 elsewhere; an absent one is the draw in bits
19:0, bit 32 set and 0 elsewhere; the hand stands in bits 19:0 alone, a raw PTE in bits 31:0 alone;
`L2_ABSENT` is bit 33 alone; an entry is `W1` in bits 31:0 and `W2` in bits 63:32. -/
def Obligations.ResponseWordsHaveTheirFields : Prop :=
  (∀ f : Pfn, (respFound f).extractLsb' 0 20 = f ∧ (respFound f).extractLsb' 20 44 = 0) ∧
  (∀ d : Pfn, (respAbsent d).extractLsb' 0 20 = d ∧ (respAbsent d).extractLsb' 20 12 = 0 ∧
    (respAbsent d).getLsbD 32 = true ∧ (respAbsent d).extractLsb' 33 31 = 0) ∧
  (∀ h : BitVec 20, (respHand h).extractLsb' 0 20 = h ∧ (respHand h).extractLsb' 20 44 = 0) ∧
  (∀ w : Word32, (respPte w).extractLsb' 0 32 = w ∧ (respPte w).extractLsb' 32 32 = 0) ∧
  (respL2Absent.getLsbD 33 = true ∧ respL2Absent.extractLsb' 0 33 = 0 ∧
    respL2Absent.extractLsb' 34 30 = 0) ∧
  ∀ e : TlbEntry, (respEntry e).extractLsb' 0 32 = e.w1 ∧ (respEntry e).extractLsb' 32 32 = e.w2

/-- R88, R89: for every line, the commands it assembles to and the ranges of its operands. A line of a
command assembles to that command, with the operands as written, in the order of R88. `TLB_REFILL`
assembles to TLB_CLEAR_ENTRY then TLB_INSERT, `UNMAP` to PT_CLEAR_ENTRY then TLB_CLEAR_ENTRY, `REMAP` to
PT_UPDATE then TLB_CLEAR_ENTRY, and `TLB_FLUSH` to TLB_WRITE_BACK then TLB_CLEAR_ALL. A VPN, PFN or IDX
operand above 0xFFFFF, or an M or R operand above 1, is an assembly error and produces no word. -/
def Obligations.AssembledLinesDecodeToTheirCommands : Prop :=
  (AssemblesTo .ptInit [.ptInit] ∧ AssemblesTo .tlbInit [.tlbInit] ∧
    AssemblesTo .tlbClearAll [.tlbClearAll] ∧ AssemblesTo .tlbClearAllRef [.tlbClearAllRef] ∧
    AssemblesTo .tlbWriteBack [.tlbWriteBack] ∧ AssemblesTo .tlbReadHand [.tlbReadHand] ∧
    AssemblesTo .tlbFlush [.tlbWriteBack, .tlbClearAll]) ∧
  (∀ v : Nat, v ≤ 0xFFFFF → ∃ u : BitVec 20, u.toNat = v ∧
    AssemblesTo (.ptGetFrame v) [.ptGetFrame u] ∧
    AssemblesTo (.ptClearEntry v) [.ptClearEntry u] ∧
    AssemblesTo (.ptReadPte v) [.ptReadPte u] ∧
    (∀ op, AssemblesTo (.tlbLookup v op) [.tlbLookup u op]) ∧
    AssemblesTo (.tlbClearEntry v) [.tlbClearEntry u] ∧
    AssemblesTo (.tlbReadEntry v) [.tlbReadEntry u] ∧
    AssemblesTo (.unmap v) [.ptClearEntry u, .tlbClearEntry u]) ∧
  (∀ v f : Nat, v ≤ 0xFFFFF → f ≤ 0xFFFFF → ∃ u g : BitVec 20, u.toNat = v ∧ g.toNat = f ∧
    AssemblesTo (.ptUpdate v f) [.ptUpdate u g] ∧
    AssemblesTo (.remap v f) [.ptUpdate u g, .tlbClearEntry u]) ∧
  (∀ v f m r : Nat, v ≤ 0xFFFFF → f ≤ 0xFFFFF → m ≤ 1 → r ≤ 1 →
    ∃ (u g : BitVec 20) (b c : Bool), u.toNat = v ∧ g.toNat = f ∧ b.toNat = m ∧ c.toNat = r ∧
      AssemblesTo (.tlbInsert v f m r) [.tlbInsert u g b c] ∧
      AssemblesTo (.tlbRefill v f m r) [.tlbClearEntry u, .tlbInsert u g b c]) ∧
  (∀ v : Nat, 0xFFFFF < v →
    OutOfRange (.ptGetFrame v) ∧ OutOfRange (.ptClearEntry v) ∧ OutOfRange (.ptReadPte v) ∧
    (∀ op, OutOfRange (.tlbLookup v op)) ∧ OutOfRange (.tlbClearEntry v) ∧
    OutOfRange (.tlbReadEntry v) ∧ OutOfRange (.unmap v)) ∧
  (∀ v f : Nat, 0xFFFFF < v ∨ 0xFFFFF < f →
    OutOfRange (.ptUpdate v f) ∧ OutOfRange (.remap v f)) ∧
  ∀ v f m r : Nat, 0xFFFFF < v ∨ 0xFFFFF < f ∨ 1 < m ∨ 1 < r →
    OutOfRange (.tlbInsert v f m r) ∧ OutOfRange (.tlbRefill v f m r)

/-! ### The step -/

/-- R7, R64: a step takes the driver's next word and, when it decodes to a command, is that command on
the state with the word taken. -/
def Obligations.StepRunsTheDecodedCommand : Prop :=
  ∀ (s : State) (w : Word64) (rest : List Word64) (i : Instr),
    s.input = w :: rest → decode w = .ok i → step s = exec i { s with input := rest }

/-- R236: with no command waiting and no fault recorded, the engine is idle and keeps all state. That
idling is a step of its own is the model's choice (assumption 1). -/
def Obligations.IdleEngineKeepsAllState : Prop :=
  ∀ s : State, s.fault = .none → s.input = [] → step s = .next s

/-- R64: the words of a sequence of commands, issued one after another, take effect as the commands do in
that order, whatever the driver has issued after them. -/
def Obligations.IssuedCommandsTakeEffectInOrder : Prop :=
  ∀ (is : List Instr) (rest : List Word64) (s : State),
    Host.Core.run Sys2Proof.core is.length { s with input := is.map encode ++ rest } =
      runCommands is { s with input := rest }

/-! ### Faults -/

/-- R223: once `FAULT` is nonzero the engine has no step and takes no command, the state is not the end of
a run, and only power-on reset leaves `FAULT` at 0. -/
def Obligations.HaltedEngineTakesNoCommand : Prop :=
  (∀ s : State, s.fault ≠ .none →
    step s = .fault .halted ∧ (∀ i, exec i s = .fault .halted) ∧ ¬ Ended s) ∧
  (∀ s t : State, step s = .next t → s.fault = .none) ∧
  ∀ cfg : Config, (State.resetOf cfg).fault = .none

/-- R222: a command that faults changes no state except `FAULT`, appends no event and gives no response;
so does the step that takes its word. -/
def Obligations.FaultingCommandChangesOnlyFault : Prop :=
  (∀ (i : Instr) (s t : State), exec i s = .next t → t.fault ≠ .none →
    t = { s with fault := t.fault }) ∧
  ∀ s t : State, step s = .next t → t.fault ≠ .none →
    ∃ w rest, s.input = w :: rest ∧ t = { s with input := rest, fault := t.fault }

/-- R220: a command given to a running engine always answers: either it completes and delivers one
response, or it records a fault and delivers none. -/
def Obligations.EveryCommandCompletesOrFaults : Prop :=
  ∀ (i : Instr) (s : State), s.fault = .none →
    ∃ t, exec i s = .next t ∧
      ((t.fault = .none ∧ ∃ r, t.responses = s.responses ++ [r]) ∨
        (t.fault ≠ .none ∧ t.responses = s.responses))

/-- R221: each fault is recorded exactly when its cause is met, with its code, and nothing else is. The last
three causes are those of a command whose sub-block is ready. -/
def Obligations.EachFaultHasItsCause : Prop :=
  (∀ (i : Instr) (s t : State), TlbHasCapacity s → s.fault = .none → exec i s = .next t →
    (t.fault ≠ .illegalCommand) ∧
    (t.fault = .notInitialized ↔
      (isPageTableCommand i = true ∧ i ≠ .ptInit ∧ s.ptReady = false) ∨
        (isPageTableCommand i = false ∧ i ≠ .tlbInit ∧ s.tlbReady = false)) ∧
    (t.fault = .doubleInit ↔
      (i = .ptInit ∧ s.ptReady = true) ∨ (i = .tlbInit ∧ s.tlbReady = true)) ∧
    (t.fault = .indexRange ↔
      s.tlbReady = true ∧ ∃ k, i = .tlbReadEntry k ∧ s.cfg.n ≤ k.toNat) ∧
    (t.fault = .duplicateVpn ↔
      s.tlbReady = true ∧ s.cfg.checkUnique = true ∧
        ∃ vpn pfn m r v, i = .tlbInsert vpn pfn m r ∧ IsVictim s v ∧ HeldElsewhere s v vpn) ∧
    (t.fault = .resourceExhausted ↔
      s.ptReady = true ∧ ∃ vpn pfn, i = .ptUpdate vpn pfn ∧ s.allocated vpn = false ∧
        s.l2Used.toNat = s.cfg.l2Pool) ∧
    (t.fault ≠ .none → t = { s with fault := t.fault })) ∧
  (∀ (s : State) (w : Word64) (rest : List Word64), s.fault = .none → s.input = w :: rest →
    (step s = .next { s with input := rest, fault := .illegalCommand } ↔
      ∀ i, decode w ≠ .ok i)) ∧
  FaultCode.none.bits = 0 ∧ FaultCode.illegalCommand.bits = 1 ∧
  FaultCode.notInitialized.bits = 2 ∧ FaultCode.doubleInit.bits = 3 ∧
  FaultCode.indexRange.bits = 4 ∧ FaultCode.duplicateVpn.bits = 5 ∧
  FaultCode.resourceExhausted.bits = 6

/-- R224: the priority of the faults a word can meet: the engine has already faulted, then
ILLEGAL_COMMAND, then NOT_INITIALIZED or DOUBLE_INIT, and the command's own fault only after these, at
most one; a fault is never recorded together with a page fault's or a miss's response. -/
def Obligations.FaultPriorityIsHaltedIllegalInitOwn : Prop :=
  (∀ (s : State) (w : Word64) (rest : List Word64), s.input = w :: rest →
    (s.fault ≠ .none → step s = .fault .halted) ∧
    (s.fault = .none → (∀ i, decode w ≠ .ok i) →
      step s = .next { s with input := rest, fault := .illegalCommand }) ∧
    (∀ i c, s.fault = .none → decode w = .ok i → initFault s i = some c →
      step s = .next { s with input := rest, fault := c })) ∧
  (∀ (i : Instr) (s t : State), exec i s = .next t → initFault s i = none →
    (t.fault = .indexRange → ∃ k, i = .tlbReadEntry k) ∧
    (t.fault = .duplicateVpn → ∃ v f m r, i = .tlbInsert v f m r) ∧
    (t.fault = .resourceExhausted → ∃ v f, i = .ptUpdate v f) ∧
    (t.fault = .none ∨ t.fault = .indexRange ∨ t.fault = .duplicateVpn ∨
      t.fault = .resourceExhausted)) ∧
  ∀ (i : Instr) (s t : State), exec i s = .next t → t.fault ≠ .none →
    t.responses = s.responses ∧ t.pageFault = s.pageFault ∧ t.tlbMiss = s.tlbMiss

/-! ### Reset -/

/-- R35, R256: the model's reset state is a `Reset(cfg)` for every configuration, and `State.reset` is the
one of the standard configuration (the model's choice, assumption 2). What R35 leaves unspecified is the
model's choice too (assumption 5) and is not stated here. -/
def Obligations.ResetStateIsAsPowerOnResetLeavesIt : Prop :=
  (∀ cfg : Config, IsReset cfg (State.resetOf cfg)) ∧ State.reset = State.resetOf Config.standard

/-- R35, R28, R23: what reset leaves unspecified is unobservable. Two power-on states of one
configuration with one driver and the same draws (assumption 3, the model's choice) are
indistinguishable, and indistinguishable states step to indistinguishable states, so that no response,
event, flag or fault ever differs. -/
def Obligations.UnspecifiedResetContentsAreUnobservable : Prop :=
  (∀ (cfg : Config) (s t : State), IsReset cfg s → IsReset cfg t → t.input = s.input →
    t.responses = s.responses → t.draws = s.draws → Indistinguishable s t) ∧
  (∀ s t s' : State, Indistinguishable s t → step s = .next s' →
    ∃ t', step t = .next t' ∧ Indistinguishable s' t') ∧
  ∀ (s t : State) (f : Fault), Indistinguishable s t → step s = .fault f → step t = .fault f

/-- R252: after reset, PT_INIT and TLB_INIT, in either order, every piece of state holds what the rule's
table says. -/
def Obligations.BothInitialisationsGiveReadyState : Prop :=
  ∀ (cfg : Config) (s : State), IsReset cfg s →
    (∃ t, runCommands [.ptInit, .tlbInit] s = .next t ∧ IsReady cfg t) ∧
    ∃ t, runCommands [.tlbInit, .ptInit] s = .next t ∧ IsReady cfg t

/-! ### The page-table commands -/

/-- R111: PT_INIT, not yet done, clears every allocated bit and the count and sets `PT_READY`; no PTE and
no flag changes. -/
def Obligations.PtInitMarksEverySlotAbsent : Prop :=
  ∀ s : State, s.fault = .none → s.ptReady = false →
    ∃ t, exec .ptInit s = .next t ∧ Completed .respNone s t ∧
      t.ptReady = true ∧ (∀ i, t.slotAllocated i = false) ∧ t.l2Used = 0 ∧
      (∀ v, t.pteAt v = s.pteAt v) ∧ t.pageFault = s.pageFault ∧
      SameTlb s t ∧ SentNothing s t ∧ DrewNothing s t

/-- R112, R60: PT_GET_FRAME of a VPN whose slot is allocated and whose PTE is present answers its frame
with flag bit 32 clear, writes `PAGE_FAULT <- 0` and changes nothing else. -/
def Obligations.PtGetFrameAnswersAPresentMapping : Prop :=
  ∀ (s : State) (v : Vpn), s.fault = .none → s.ptReady = true → s.allocated v = true →
    (s.pteAt v).getLsbD 31 = true →
    ∃ t, exec (.ptGetFrame v) s = .next t ∧
      Completed (.word (((s.pteAt v).extractLsb' 0 20).setWidth 64)) s t ∧
      t.pageFault = some false ∧
      t.ptReady = s.ptReady ∧ t.l1a = s.l1a ∧ (∀ u, t.pteAt u = s.pteAt u) ∧ t.l2Used = s.l2Used ∧
      SameTlb s t ∧ SentNothing s t ∧ DrewNothing s t

/-- R112, R225: PT_GET_FRAME of a VPN whose slot is unallocated or whose PTE is not present answers with
bit 32 set and some value in the PFN field, writes `PAGE_FAULT <- 1`, allocates nothing and changes
nothing else of the engine. -/
def Obligations.PtGetFrameReportsAPageFault : Prop :=
  ∀ (s : State) (v : Vpn), s.fault = .none → s.ptReady = true →
    (s.allocated v = false ∨ (s.pteAt v).getLsbD 31 = false) →
    ∃ t d, exec (.ptGetFrame v) s = .next t ∧
      Completed (.word ((1#64 <<< 32) ||| (d : Pfn).setWidth 64)) s t ∧
      t.pageFault = some true ∧
      t.ptReady = s.ptReady ∧ t.l1a = s.l1a ∧ (∀ u, t.pteAt u = s.pteAt u) ∧ t.l2Used = s.l2Used ∧
      SameTlb s t ∧ SentNothing s t

/-- R113: PT_UPDATE installs the whole PTE `0x80000000 | pfn`. When the slot is unallocated and the pool is
not used up, it first allocates it: every other PTE of that slot reads 0 and `L2_USED` grows by one.
Every PTE of another slot, and in an allocated slot every other PTE, is unchanged. -/
def Obligations.PtUpdateInstallsTheMapping : Prop :=
  ∀ (s : State) (v : Vpn) (f : Pfn), s.fault = .none → s.ptReady = true →
    (s.allocated v = true ∨ s.l2Used.toNat ≠ s.cfg.l2Pool) →
    ∃ t, exec (.ptUpdate v f) s = .next t ∧ Completed .respNone s t ∧
      t.pteAt v = 0x80000000#32 ||| f.setWidth 32 ∧
      (∀ u, u ≠ v → l1 u = l1 v → t.pteAt u = if s.allocated v then s.pteAt u else 0) ∧
      (∀ u, l1 u ≠ l1 v → t.pteAt u = s.pteAt u) ∧
      (∀ i, t.slotAllocated i = (s.slotAllocated i || i == l1 v)) ∧
      t.l2Used = (if s.allocated v then s.l2Used else s.l2Used + 1) ∧
      t.ptReady = s.ptReady ∧ t.pageFault = s.pageFault ∧
      SameTlb s t ∧ SentNothing s t ∧ DrewNothing s t

/-- R114: PT_CLEAR_ENTRY clears bit 31 of the VPN's PTE and keeps bits 30:0; in an unallocated slot it does
nothing. It allocates and frees nothing. -/
def Obligations.PtClearEntryClearsOnlyThePresentBit : Prop :=
  ∀ (s : State) (v : Vpn), s.fault = .none → s.ptReady = true →
    ∃ t, exec (.ptClearEntry v) s = .next t ∧ Completed .respNone s t ∧
      (s.allocated v = true → (t.pteAt v).getLsbD 31 = false ∧
        (t.pteAt v).extractLsb' 0 31 = (s.pteAt v).extractLsb' 0 31) ∧
      (s.allocated v = false → t.pteAt v = s.pteAt v) ∧
      (∀ u, u ≠ v → t.pteAt u = s.pteAt u) ∧
      t.ptReady = s.ptReady ∧ t.l1a = s.l1a ∧ t.l2Used = s.l2Used ∧ t.pageFault = s.pageFault ∧
      SameTlb s t ∧ SentNothing s t ∧ DrewNothing s t

/-- R115: PT_READ_PTE answers the raw PTE, or bit 33 alone when the slot is unallocated, and changes no
state. -/
def Obligations.PtReadPteAnswersTheRawEntry : Prop :=
  ∀ (s : State) (v : Vpn), s.fault = .none → s.ptReady = true →
    exec (.ptReadPte v) s = .next { s with responses := s.responses ++
      [.word (if s.allocated v then (s.pteAt v).setWidth 64 else 1#64 <<< 33)] }

/-! ### The TLB commands -/

/-- R141: TLB_INIT, not yet done, loads every entry from `TLB_INIT_CONTENTS` with its valid bit clear, sets
the hand to 0 and `TLB_READY`; no flag changes. -/
def Obligations.TlbInitLoadsInvalidEntries : Prop :=
  ∀ s : State, s.fault = .none → s.tlbReady = false →
    ∃ t, exec .tlbInit s = .next t ∧ Completed .respNone s t ∧
      t.tlbReady = true ∧ t.hand = 0 ∧ t.tlb.length = s.cfg.n ∧
      (∀ k, k < s.cfg.n → (t.entry k).valid = false ∧
        (t.entry k).w1.extractLsb' 0 31 =
          (s.cfg.tlbInitContents.getD k ⟨0, 0⟩).w1.extractLsb' 0 31 ∧
        (t.entry k).w2 = (s.cfg.tlbInitContents.getD k ⟨0, 0⟩).w2) ∧
      t.tlbMiss = s.tlbMiss ∧ SamePageTable s t ∧ SentNothing s t ∧ DrewNothing s t

/-- R142: TLB_LOOKUP hits the lowest-index valid entry that holds the VPN: it answers its frame, sets its R
bit, and its M bit for a STORE only, and writes `TLB_MISS <- 0`. No other entry and no other bit
changes, nor does the hand. -/
def Obligations.TlbLookupHitMarksTheFirstMatch : Prop :=
  ∀ (s : State) (v : Vpn) (op : Access) (k : Nat), s.fault = .none → s.tlbReady = true →
    TlbHasCapacity s → k < s.cfg.n → (s.entry k).holds v = true →
    (∀ j, j < k → (s.entry j).holds v = false) →
    ∃ t, exec (.tlbLookup v op) s = .next t ∧
      Completed (.word (((s.entry k).w2.extractLsb' 0 20).setWidth 64)) s t ∧
      t.tlbMiss = some false ∧
      (t.entry k).w1 = (s.entry k).w1 ∧ (t.entry k).referenced = true ∧
      (t.entry k).modified = ((s.entry k).modified || op == .store) ∧
      (t.entry k).w2.extractLsb' 0 30 = (s.entry k).w2.extractLsb' 0 30 ∧
      (∀ j, j ≠ k → t.entry j = s.entry j) ∧ t.tlb.length = s.tlb.length ∧
      t.tlbReady = s.tlbReady ∧ t.hand = s.hand ∧
      SamePageTable s t ∧ SentNothing s t ∧ DrewNothing s t

/-- R142, R226: TLB_LOOKUP of a VPN that no valid entry holds answers with bit 32 set and some value in
the PFN field, writes `TLB_MISS <- 1` and changes nothing else of the engine. -/
def Obligations.TlbLookupMissChangesOnlyTheFlag : Prop :=
  ∀ (s : State) (v : Vpn) (op : Access), s.fault = .none → s.tlbReady = true →
    TlbHasCapacity s → (∀ k, k < s.cfg.n → (s.entry k).holds v = false) →
    ∃ t d, exec (.tlbLookup v op) s = .next t ∧
      Completed (.word ((1#64 <<< 32) ||| (d : Pfn).setWidth 64)) s t ∧
      t.tlbMiss = some true ∧ t.tlb = s.tlb ∧ t.hand = s.hand ∧ t.tlbReady = s.tlbReady ∧
      SamePageTable s t ∧ SentNothing s t

/-- R143: after TLB_LOOKUP the miss flag is 1 iff no entry below `N` is valid with the VPN, the response
carries it in bit 32, and it is the value the source's literal loop leaves, whatever the flag held
before: the two differ only for an empty array, where the loop leaves the flag stale. -/
def Obligations.MissFlagIsTheContractAndTheLiteralLoop : Prop :=
  (∀ (s t : State) (v : Vpn) (op : Access), s.fault = .none → s.tlbReady = true →
    TlbHasCapacity s → exec (.tlbLookup v op) s = .next t →
    (t.tlbMiss = some true ↔
      ¬ ∃ k, k < s.cfg.n ∧ (s.entry k).w1.getLsbD 31 = true ∧ (s.entry k).w1.extractLsb' 0 20 = v) ∧
    (∃ w b, t.responses = s.responses ++ [.word w] ∧ t.tlbMiss = some b ∧ w.getLsbD 32 = b ∧
      (b = false → s.tlbTranslate v = some (w.extractLsb' 0 20))) ∧
    ∀ before, literalMissFlag v s.tlb before = t.tlbMiss) ∧
  ∀ (v : Vpn) (before : Option Bool), literalMissFlag v [] before = before

/-- R144: TLB_CLEAR_ALL clears bit 31 of every `W1` and keeps every other bit, the hand and the flags; it
sends nothing. -/
def Obligations.TlbClearAllClearsEveryValidBit : Prop :=
  ∀ s : State, s.fault = .none → s.tlbReady = true → TlbHasCapacity s →
    ∃ t, exec .tlbClearAll s = .next t ∧ Completed .respNone s t ∧
      t.tlb.length = s.cfg.n ∧
      (∀ k, k < s.cfg.n → (t.entry k).valid = false ∧
        (t.entry k).w1.extractLsb' 0 31 = (s.entry k).w1.extractLsb' 0 31 ∧
        (t.entry k).w2 = (s.entry k).w2) ∧
      t.tlbReady = s.tlbReady ∧ t.tlbMiss = s.tlbMiss ∧ t.hand = s.hand ∧
      SamePageTable s t ∧ SentNothing s t ∧ DrewNothing s t

/-- R145: TLB_CLEAR_ALL_REF clears bit 31 of every `W2`, of valid and invalid entries alike, and keeps
every other bit, the hand and the flags; it sends nothing. -/
def Obligations.TlbClearAllRefClearsEveryReferenceBit : Prop :=
  ∀ s : State, s.fault = .none → s.tlbReady = true → TlbHasCapacity s →
    ∃ t, exec .tlbClearAllRef s = .next t ∧ Completed .respNone s t ∧
      t.tlb.length = s.cfg.n ∧
      (∀ k, k < s.cfg.n → (t.entry k).referenced = false ∧
        (t.entry k).w2.extractLsb' 0 31 = (s.entry k).w2.extractLsb' 0 31 ∧
        (t.entry k).w1 = (s.entry k).w1) ∧
      t.tlbReady = s.tlbReady ∧ t.tlbMiss = s.tlbMiss ∧ t.hand = s.hand ∧
      SamePageTable s t ∧ SentNothing s t ∧ DrewNothing s t

/-- R146: TLB_CLEAR_ENTRY clears the valid bit of every entry whose VPN field matches, and keeps every
other bit and every other entry; no entry is then valid with the VPN. -/
def Obligations.TlbClearEntryClearsEveryMatch : Prop :=
  ∀ (s : State) (v : Vpn), s.fault = .none → s.tlbReady = true → TlbHasCapacity s →
    ∃ t, exec (.tlbClearEntry v) s = .next t ∧ Completed .respNone s t ∧
      t.tlb.length = s.cfg.n ∧
      (∀ k, k < s.cfg.n → (s.entry k).vpn = v → (t.entry k).valid = false ∧
        (t.entry k).w1.extractLsb' 0 31 = (s.entry k).w1.extractLsb' 0 31 ∧
        (t.entry k).w2 = (s.entry k).w2) ∧
      (∀ k, k < s.cfg.n → (s.entry k).vpn ≠ v → t.entry k = s.entry k) ∧
      (∀ k, (t.entry k).holds v = false) ∧
      t.tlbReady = s.tlbReady ∧ t.tlbMiss = s.tlbMiss ∧ t.hand = s.hand ∧
      SamePageTable s t ∧ SentNothing s t ∧ DrewNothing s t

/-- R150: TLB_READ_ENTRY below `N` answers `{W2, W1}` of the entry and changes no state; at `N` and above it
faults INDEX_RANGE. -/
def Obligations.TlbReadEntryAnswersBothWords : Prop :=
  ∀ (s : State) (k : TlbIndex), s.fault = .none → s.tlbReady = true →
    (k.toNat < s.cfg.n → exec (.tlbReadEntry k) s = .next { s with responses := s.responses ++
      [.word ((s.entry k.toNat).w2 ++ (s.entry k.toNat).w1)] }) ∧
    (s.cfg.n ≤ k.toNat → exec (.tlbReadEntry k) s = .next { s with fault := .indexRange })

/-- R151: TLB_READ_HAND answers the hand and changes no state. -/
def Obligations.TlbReadHandAnswersTheHand : Prop :=
  ∀ s : State, s.fault = .none → s.tlbReady = true →
    exec .tlbReadHand s = .next { s with responses := s.responses ++ [.word (s.hand.setWidth 64)] }

/-! ### Insertion and eviction -/

/-- R170, R174 to R176, R201: TLB_INSERT replaces the victim's two words whole, sends the victim's REF and
MOD events first if it was valid, moves the hand past the victim, and changes no other entry. -/
def Obligations.TlbInsertReplacesTheVictim : Prop :=
  ∀ (s : State) (vpn : Vpn) (pfn : Pfn) (m r : Bool) (v : Nat), s.fault = .none →
    s.tlbReady = true → TlbHasCapacity s → HandInRange s → IsVictim s v →
    (s.cfg.checkUnique = true → ¬ HeldElsewhere s v vpn) →
    ∃ t, exec (.tlbInsert vpn pfn m r) s = .next t ∧ Completed .respNone s t ∧
      (t.entry v).w1 = 0x80000000#32 ||| vpn.setWidth 32 ∧
      (t.entry v).w2.getLsbD 31 = r ∧ (t.entry v).w2.getLsbD 30 = m ∧
      (t.entry v).w2.extractLsb' 20 10 = 0 ∧ (t.entry v).w2.extractLsb' 0 20 = pfn ∧
      (∀ j, j ≠ v → t.entry j = s.entry j) ∧ t.tlb.length = s.tlb.length ∧
      t.hand.toNat = (v + 1) % s.cfg.n ∧
      t.notify = s.notify ++
        (if (s.entry v).valid then
          [⟨.ref, (s.entry v).pfn, (s.entry v).referenced⟩,
            ⟨.mod, (s.entry v).pfn, (s.entry v).modified⟩]
        else []) ∧
      t.tlbReady = s.tlbReady ∧ t.tlbMiss = s.tlbMiss ∧ SamePageTable s t ∧ DrewNothing s t

/-- R171, R172: there is exactly one victim; where no entry from the hand on is a candidate it is the entry
at the hand, which is then valid and referenced, so that its two events are sent with R = 1. -/
def Obligations.FallbackVictimIsWrittenBack : Prop :=
  (∀ s : State, TlbHasCapacity s → ∃ v, IsVictim s v ∧ ∀ u, IsVictim s u → u = v) ∧
  ∀ (s t : State) (vpn : Vpn) (pfn : Pfn) (m r : Bool), s.tlbReady = true → TlbHasCapacity s →
    HandInRange s →
    (∀ k, s.hand.toNat ≤ k → k < s.cfg.n → (s.entry k).candidate = false) →
    exec (.tlbInsert vpn pfn m r) s = .next t → t.fault = .none →
    IsVictim s s.hand.toNat ∧
      (s.entry s.hand.toNat).valid = true ∧ (s.entry s.hand.toNat).referenced = true ∧
      (t.entry s.hand.toNat).holds vpn = true ∧
      t.notify = s.notify ++ [⟨.ref, (s.entry s.hand.toNat).pfn, true⟩,
        ⟨.mod, (s.entry s.hand.toNat).pfn, (s.entry s.hand.toNat).modified⟩]

/-- R175: after an insertion the hand is the victim's index plus one, 0 when that index is `N - 1`; with
`N = 1` it stays 0. -/
def Obligations.HandAdvancesPastTheVictim : Prop :=
  ∀ (s t : State) (vpn : Vpn) (pfn : Pfn) (m r : Bool) (v : Nat), s.tlbReady = true →
    TlbHasCapacity s → HandInRange s → IsVictim s v →
    exec (.tlbInsert vpn pfn m r) s = .next t → t.fault = .none →
    (v + 1 < s.cfg.n → t.hand.toNat = v + 1) ∧ (v + 1 = s.cfg.n → t.hand = 0) ∧
      (s.cfg.n = 1 → t.hand = 0)

/-- R173: with `CHECK_UNIQUE` true an insert faults DUPLICATE_VPN, before writing anything, exactly when a
valid entry other than the victim holds the VPN; if only the victim holds it, or with `CHECK_UNIQUE`
false, it proceeds, and then two entries can hold the VPN. -/
def Obligations.InsertDefendsUniquenessWhenAsked : Prop :=
  ∀ (s : State) (vpn : Vpn) (pfn : Pfn) (m r : Bool) (v : Nat), s.fault = .none →
    s.tlbReady = true → TlbHasCapacity s → HandInRange s → IsVictim s v →
    (s.cfg.checkUnique = true → HeldElsewhere s v vpn →
      exec (.tlbInsert vpn pfn m r) s = .next { s with fault := .duplicateVpn }) ∧
    (s.cfg.checkUnique = true → ¬ HeldElsewhere s v vpn →
      ∃ t, exec (.tlbInsert vpn pfn m r) s = .next t ∧ t.fault = .none ∧
        (t.entry v).holds vpn = true ∧ ∀ j, (t.entry j).holds vpn = true → j = v) ∧
    (s.cfg.checkUnique = false →
      ∃ t, exec (.tlbInsert vpn pfn m r) s = .next t ∧ t.fault = .none ∧
        (t.entry v).holds vpn = true ∧
        (HeldElsewhere s v vpn → ∃ j, j ≠ v ∧ (t.entry j).holds vpn = true))

/-- R177: the state machine of the insertion, started in SCAN at the hand, reaches an end within
`N - HAND` scan iterations and the few phases after them, and the state it ends in is the one the
atomic command answers. -/
def Obligations.InsertionPhasesPerformTheAtomicCommand : Prop :=
  ∀ (s : State) (vpn : Vpn) (pfn : Pfn) (m r : Bool), s.fault = .none → s.tlbReady = true →
    TlbHasCapacity s → HandInRange s →
    ∃ p t, insertPhaseRun vpn pfn m r (s.cfg.n - s.hand.toNat + 5) (.scan s.hand.toNat, s) = (p, t) ∧
      exec (.tlbInsert vpn pfn m r) s = .next t ∧
      (p = .done ∧ t.fault = .none ∨ p = .faulted ∧ t.fault = .duplicateVpn)

/-! ### Write-back -/

/-- R202: TLB_WRITE_BACK appends, for every valid entry in ascending index order, its REF and then its MOD
event, and changes no entry and nothing else. -/
def Obligations.TlbWriteBackSendsEveryValidEntry : Prop :=
  ∀ s : State, s.fault = .none → s.tlbReady = true → TlbHasCapacity s →
    exec .tlbWriteBack s = .next { s with
      notify := s.notify ++ ((List.range s.cfg.n).filter fun k => (s.entry k).valid).flatMap fun k =>
        [⟨.ref, (s.entry k).pfn, (s.entry k).referenced⟩,
          ⟨.mod, (s.entry k).pfn, (s.entry k).modified⟩]
      responses := s.responses ++ [.respNone] }

/-- R203: only TLB_INSERT with a valid victim and TLB_WRITE_BACK send events, and what is sent stays
sent. -/
def Obligations.OnlyInsertAndWriteBackSendEvents : Prop :=
  ∀ (i : Instr) (s t : State), TlbHasCapacity s → exec i s = .next t →
    (∃ es, t.notify = s.notify ++ es) ∧
    (t.notify ≠ s.notify →
      i = .tlbWriteBack ∨
        ∃ vpn pfn m r v, i = .tlbInsert vpn pfn m r ∧ IsVictim s v ∧ (s.entry v).valid = true)

/-- R204: for a valid entry with R = 1 and M = 1, its eviction sends exactly one REF and one MOD event for
its frame, each with bit 1; TLB_WRITE_BACK sends exactly these two for it, between those of the entries
before it and those of the entries after it. -/
def Obligations.WriteBackReportsSetBitsOnce : Prop :=
  ∀ (s t : State) (k : Nat), s.tlbReady = true → TlbHasCapacity s → k < s.cfg.n →
    (s.entry k).valid = true → (s.entry k).referenced = true → (s.entry k).modified = true →
    (∀ vpn pfn m r, IsVictim s k → exec (.tlbInsert vpn pfn m r) s = .next t → t.fault = .none →
      t.notify = s.notify ++ [⟨.ref, (s.entry k).pfn, true⟩, ⟨.mod, (s.entry k).pfn, true⟩]) ∧
    (exec .tlbWriteBack s = .next t →
      t.notify = s.notify ++ (s.tlb.take k).flatMap writeBackEvents ++
        [⟨.ref, (s.entry k).pfn, true⟩, ⟨.mod, (s.entry k).pfn, true⟩] ++
        (s.tlb.drop (k + 1)).flatMap writeBackEvents)

/-! ### Invariants -/

/-- R34: from every state that meets the invariants, a step gives a state that meets them: the hand below
`N`, `L2_USED` the number of allocated slots and at most `L2_POOL`, unused PTE bits 0, valid VPNs unique
where the instance checks it, the TLB array of `N` entries. One more is that the PTE storage is
canonical, which is the model's own storage form (assumption 4, the model's choice) and no rule of the
spec. -/
def Obligations.StepKeepsTheInvariants : Prop :=
  ∀ s t : State, Inv s → step s = .next t → Inv t

/-- R34, R35: every power-on state whose PTE storage is canonical meets the invariants, whatever the parts
R35 leaves unspecified hold; so does the model's own reset state (assumption 5). Canonical storage is the
model's own storage form (assumption 4, the model's choice). -/
def Obligations.ResetMeetsTheInvariants : Prop :=
  (∀ (cfg : Config) (s : State), IsReset cfg s → StorageCanonical s → Inv s) ∧
    ∀ cfg : Config, Inv (State.resetOf cfg)

/-- R34, R256: whatever words the driver issues after power-on reset, and whatever the parts R35 leaves
unspecified hold, as long as the PTE storage is canonical, every state the engine reaches meets the
invariants. Canonical storage, the premise and one of the invariants, is the model's own storage form
(assumption 4, the model's choice): every contents of the PTEs has exactly one. -/
def Obligations.EveryRunFromResetMeetsTheInvariants : Prop :=
  ∀ (cfg : Config) (s t : State) (ws : List Word64) (k : Nat), IsReset cfg s → StorageCanonical s →
    Host.Core.run Sys2Proof.core k { s with input := ws } = .next t → Inv t

/-- R34 (d): TLB_INSERT leaves the unused bits of its victim 0, and every command but TLB_INIT keeps the
unused bits of every entry 0 once they are. -/
def Obligations.UnusedEntryBitsStayZero : Prop :=
  (∀ (s t : State) (vpn : Vpn) (pfn : Pfn) (m r : Bool) (v : Nat), s.tlbReady = true →
    TlbHasCapacity s → HandInRange s → IsVictim s v →
    exec (.tlbInsert vpn pfn m r) s = .next t → t.fault = .none → EntryUnusedZero t v) ∧
  ∀ (i : Instr) (s t : State) (k : Nat), i ≠ .tlbInit → exec i s = .next t →
    EntryUnusedZero s k → EntryUnusedZero t k

/-! ### Whole-machine rules -/

/-- R22: each piece of state changes only by the commands its row names, and the configuration by
none. -/
def Obligations.StateChangesOnlyByItsWriters : Prop :=
  ∀ (i : Instr) (s t : State), exec i s = .next t →
    t.cfg = s.cfg ∧ t.input = s.input ∧
    (t.ptReady ≠ s.ptReady → i = .ptInit) ∧
    (t.l1a ≠ s.l1a → i = .ptInit ∨ ∃ v f, i = .ptUpdate v f) ∧
    (t.pte ≠ s.pte → (∃ v f, i = .ptUpdate v f) ∨ ∃ v, i = .ptClearEntry v) ∧
    (t.l2Used ≠ s.l2Used → i = .ptInit ∨ ∃ v f, i = .ptUpdate v f) ∧
    (t.pageFault ≠ s.pageFault → ∃ v, i = .ptGetFrame v) ∧
    (t.tlbReady ≠ s.tlbReady → i = .tlbInit) ∧
    ((∃ k, (t.entry k).w1 ≠ (s.entry k).w1) →
      i = .tlbInit ∨ i = .tlbClearAll ∨ (∃ v, i = .tlbClearEntry v) ∨
        ∃ v f m r, i = .tlbInsert v f m r) ∧
    ((∃ k, (t.entry k).w2 ≠ (s.entry k).w2) →
      i = .tlbInit ∨ i = .tlbClearAllRef ∨ (∃ v op, i = .tlbLookup v op) ∨
        ∃ v f m r, i = .tlbInsert v f m r) ∧
    (t.tlbMiss ≠ s.tlbMiss → ∃ v op, i = .tlbLookup v op) ∧
    (t.hand ≠ s.hand → i = .tlbInit ∨ ∃ v f m r, i = .tlbInsert v f m r)

/-- R3: no command of one sub-block reads or writes the state of the other. Replacing the other
sub-block's whole state by any other one changes nothing a command does, with the same draws (assumption
3, the model's choice: a page fault or a miss answers the same drawn value in both runs), and the
command leaves it as it was put there. -/
def Obligations.SubBlocksAreIndependent : Prop :=
  (∀ (i : Instr) (s r : State), isPageTableCommand i = true →
    exec i (s.withTlbOf r) = mapNext (fun t => t.withTlbOf r) (exec i s)) ∧
  ∀ (i : Instr) (s r : State), isPageTableCommand i = false →
    exec i (s.withPageTableOf r) = mapNext (fun t => t.withPageTableOf r) (exec i s)

/-- R58: a command of the rule's list, and PT_UPDATE, repeated at once leaves the same state, sends
nothing, and answers the same where it made no draw. -/
def Obligations.RepeatedCommandChangesNothingMore : Prop :=
  ∀ (i : Instr) (s t : State),
    ((∃ v, i = .ptGetFrame v) ∨ (∃ v f, i = .ptUpdate v f) ∨ (∃ v, i = .ptClearEntry v) ∨
      (∃ v, i = .ptReadPte v) ∨ (∃ v op, i = .tlbLookup v op) ∨ i = .tlbClearAll ∨
      i = .tlbClearAllRef ∨ (∃ v, i = .tlbClearEntry v) ∨ (∃ k, i = .tlbReadEntry k) ∨
      i = .tlbReadHand) →
    exec i s = .next t → t.fault = .none →
    ∃ u, exec i t = .next u ∧ u = { t with responses := u.responses, draws := u.draws } ∧
      (t.draws = s.draws →
        ∃ r, t.responses = s.responses ++ [r] ∧ u.responses = t.responses ++ [r])

/-! ### The source's testable properties -/

/-- R116, translation round-trip: after `update(v, f)`, whatever other commands run without a fault,
`get_frame(v)` returns `f` with the fault flag clear, until a `clear_entry(v)` or another
`update(v, _)`. -/
def Obligations.UpdatedMappingIsReturnedUntilChanged : Prop :=
  ∀ (s t u : State) (v : Vpn) (f : Pfn) (is : List Instr),
    exec (.ptUpdate v f) s = .next t → (∀ i ∈ is, changesMapping v i = false) →
    runCommands is t = .next u → u.fault = .none →
    ∃ x, exec (.ptGetFrame v) u = .next x ∧ x.fault = .none ∧ x.pageFault = some false ∧
      x.responses = u.responses ++ [.word (respFound f)]

/-- R116, fault on absence: from any uninitialised page table, after PT_INIT and any commands that run
without a fault and never update `v`, `get_frame(v)` sets the fault flag. -/
def Obligations.NeverUpdatedVpnPageFaults : Prop :=
  ∀ (s u : State) (v : Vpn) (is : List Instr), s.ptReady = false →
    runCommands (.ptInit :: is) s = .next u → (∀ i ∈ is, updatesVpn v i = false) →
    u.fault = .none →
    ∃ x d, exec (.ptGetFrame v) u = .next x ∧ x.fault = .none ∧ x.pageFault = some true ∧
      x.responses = u.responses ++ [.word (respAbsent d)]

/-- R116, clear is not delete: after `update(v, f)` and `clear_entry(v)`, `get_frame(v)` page-faults while
the PTE keeps its frame; another `update(v, f)` succeeds without allocating, and `get_frame(v)` returns
`f`. -/
def Obligations.ClearedMappingCanBeInstalledAgain : Prop :=
  ∀ (s t : State) (v : Vpn) (f : Pfn), exec (.ptUpdate v f) s = .next t → t.fault = .none →
    ∃ a b c x d, exec (.ptClearEntry v) t = .next a ∧ (a.pteAt v) = f.setWidth 32 ∧
      exec (.ptGetFrame v) a = .next b ∧ b.pageFault = some true ∧
      b.responses = a.responses ++ [.word (respAbsent d)] ∧
      exec (.ptUpdate v f) b = .next c ∧ c.fault = .none ∧ c.l2Used = t.l2Used ∧
      exec (.ptGetFrame v) c = .next x ∧ x.pageFault = some false ∧
      x.responses = c.responses ++ [.word (respFound f)]

/-- R147: after an insert of `v` that did not fault, when no valid entry below the victim holds `v`, a
lookup of `v` returns the inserted frame with the miss flag clear, sets the entry's R bit, and its M bit
for a STORE (a LOAD leaves M as inserted). -/
def Obligations.InsertedTranslationHits : Prop :=
  ∀ (s t : State) (vpn : Vpn) (pfn : Pfn) (m r : Bool) (op : Access) (v : Nat),
    s.tlbReady = true → TlbHasCapacity s → HandInRange s → IsVictim s v →
    (∀ j, j < v → (s.entry j).holds vpn = false) →
    exec (.tlbInsert vpn pfn m r) s = .next t → t.fault = .none →
    ∃ u, exec (.tlbLookup vpn op) t = .next u ∧ u.fault = .none ∧ u.tlbMiss = some false ∧
      u.responses = t.responses ++ [.word (respFound pfn)] ∧
      (u.entry v).holds vpn = true ∧ (u.entry v).referenced = true ∧
      (u.entry v).modified = (m || op == .store)

/-- R148, R68: after TLB_CLEAR_ALL every VPN, and after TLB_CLEAR_ENTRY(v) that one, misses, whatever
other commands run without a fault, until a TLB_INSERT of it. -/
def Obligations.FlushedTranslationMissesUntilInserted : Prop :=
  ∀ (s t u : State) (v : Vpn) (op : Access) (c : Instr) (is : List Instr),
    c = .tlbClearAll ∨ c = .tlbClearEntry v →
    exec c s = .next t → (∀ i ∈ is, insertsVpn v i = false) →
    runCommands is t = .next u → u.fault = .none →
    ∃ x d, exec (.tlbLookup v op) u = .next x ∧ x.fault = .none ∧ x.tlbMiss = some true ∧
      x.responses = u.responses ++ [.word (respAbsent d)]

/-- R178 (a), R179: starting from TLB_INIT, the inserts of `N` distinct VPNs fill the entries in order,
send nothing and bring the hand back to 0; the insert of one more VPN evicts exactly one of them and
sends exactly its two events. -/
def Obligations.OneInsertBeyondCapacityEvictsExactlyOne : Prop :=
  ∀ (s : State) (es : List (Vpn × Pfn × Bool × Bool)), s.fault = .none → s.tlbReady = false →
    es.length = s.cfg.n → (es.map fun e => e.1).Nodup →
    ∃ t, runCommands (.tlbInit :: es.map fun e => .tlbInsert e.1 e.2.1 e.2.2.1 e.2.2.2) s = .next t ∧
      t.fault = .none ∧ t.notify = s.notify ∧ t.hand = 0 ∧ TlbHasCapacity t ∧
      (∀ k e, es[k]? = some e → (t.entry k).holds e.1 = true ∧ (t.entry k).pfn = e.2.1 ∧
        (t.entry k).modified = e.2.2.1 ∧ (t.entry k).referenced = e.2.2.2) ∧
      ∀ vpn pfn m r, vpn ∉ es.map (fun e => e.1) →
        ∃ u k, exec (.tlbInsert vpn pfn m r) t = .next u ∧ u.fault = .none ∧ k < s.cfg.n ∧
          (u.entry k).holds vpn = true ∧ (∀ j, j ≠ k → u.entry j = t.entry j) ∧
          u.notify = s.notify ++ [⟨.ref, (t.entry k).pfn, (t.entry k).referenced⟩,
            ⟨.mod, (t.entry k).pfn, (t.entry k).modified⟩]
end

