-- ==== Sys2Proof/Laws/State.lean ====
section
/-! SUPPORT. One lemma per field per update of `State`, so that no later proof unfolds a record update. -/

namespace Sys2Proof.Machine

/-! ### `State.setPageFault` -/

@[simp] theorem State.setPageFault_cfg (s : State) (b : Bool) :
    (s.setPageFault b).cfg = s.cfg := rfl

@[simp] theorem State.setPageFault_ptReady (s : State) (b : Bool) :
    (s.setPageFault b).ptReady = s.ptReady := rfl

@[simp] theorem State.setPageFault_l1a (s : State) (b : Bool) :
    (s.setPageFault b).l1a = s.l1a := rfl

@[simp] theorem State.setPageFault_pte (s : State) (b : Bool) :
    (s.setPageFault b).pte = s.pte := rfl

@[simp] theorem State.setPageFault_l2Used (s : State) (b : Bool) :
    (s.setPageFault b).l2Used = s.l2Used := rfl

@[simp] theorem State.setPageFault_pageFault (s : State) (b : Bool) :
    (s.setPageFault b).pageFault = some b := rfl

@[simp] theorem State.setPageFault_tlbReady (s : State) (b : Bool) :
    (s.setPageFault b).tlbReady = s.tlbReady := rfl

@[simp] theorem State.setPageFault_tlb (s : State) (b : Bool) :
    (s.setPageFault b).tlb = s.tlb := rfl

@[simp] theorem State.setPageFault_tlbMiss (s : State) (b : Bool) :
    (s.setPageFault b).tlbMiss = s.tlbMiss := rfl

@[simp] theorem State.setPageFault_hand (s : State) (b : Bool) :
    (s.setPageFault b).hand = s.hand := rfl

@[simp] theorem State.setPageFault_fault (s : State) (b : Bool) :
    (s.setPageFault b).fault = s.fault := rfl

@[simp] theorem State.setPageFault_notify (s : State) (b : Bool) :
    (s.setPageFault b).notify = s.notify := rfl

@[simp] theorem State.setPageFault_responses (s : State) (b : Bool) :
    (s.setPageFault b).responses = s.responses := rfl

@[simp] theorem State.setPageFault_input (s : State) (b : Bool) :
    (s.setPageFault b).input = s.input := rfl

@[simp] theorem State.setPageFault_draws (s : State) (b : Bool) :
    (s.setPageFault b).draws = s.draws := rfl

/-! ### `State.setTlbMiss` -/

@[simp] theorem State.setTlbMiss_cfg (s : State) (b : Bool) :
    (s.setTlbMiss b).cfg = s.cfg := rfl

@[simp] theorem State.setTlbMiss_ptReady (s : State) (b : Bool) :
    (s.setTlbMiss b).ptReady = s.ptReady := rfl

@[simp] theorem State.setTlbMiss_l1a (s : State) (b : Bool) :
    (s.setTlbMiss b).l1a = s.l1a := rfl

@[simp] theorem State.setTlbMiss_pte (s : State) (b : Bool) :
    (s.setTlbMiss b).pte = s.pte := rfl

@[simp] theorem State.setTlbMiss_l2Used (s : State) (b : Bool) :
    (s.setTlbMiss b).l2Used = s.l2Used := rfl

@[simp] theorem State.setTlbMiss_pageFault (s : State) (b : Bool) :
    (s.setTlbMiss b).pageFault = s.pageFault := rfl

@[simp] theorem State.setTlbMiss_tlbReady (s : State) (b : Bool) :
    (s.setTlbMiss b).tlbReady = s.tlbReady := rfl

@[simp] theorem State.setTlbMiss_tlb (s : State) (b : Bool) :
    (s.setTlbMiss b).tlb = s.tlb := rfl

@[simp] theorem State.setTlbMiss_tlbMiss (s : State) (b : Bool) :
    (s.setTlbMiss b).tlbMiss = some b := rfl

@[simp] theorem State.setTlbMiss_hand (s : State) (b : Bool) :
    (s.setTlbMiss b).hand = s.hand := rfl

@[simp] theorem State.setTlbMiss_fault (s : State) (b : Bool) :
    (s.setTlbMiss b).fault = s.fault := rfl

@[simp] theorem State.setTlbMiss_notify (s : State) (b : Bool) :
    (s.setTlbMiss b).notify = s.notify := rfl

@[simp] theorem State.setTlbMiss_responses (s : State) (b : Bool) :
    (s.setTlbMiss b).responses = s.responses := rfl

@[simp] theorem State.setTlbMiss_input (s : State) (b : Bool) :
    (s.setTlbMiss b).input = s.input := rfl

@[simp] theorem State.setTlbMiss_draws (s : State) (b : Bool) :
    (s.setTlbMiss b).draws = s.draws := rfl

/-! ### `State.setPteAt` -/

@[simp] theorem State.setPteAt_cfg (s : State) (v : Vpn) (w : Word32) :
    (s.setPteAt v w).cfg = s.cfg := rfl

@[simp] theorem State.setPteAt_ptReady (s : State) (v : Vpn) (w : Word32) :
    (s.setPteAt v w).ptReady = s.ptReady := rfl

@[simp] theorem State.setPteAt_l1a (s : State) (v : Vpn) (w : Word32) :
    (s.setPteAt v w).l1a = s.l1a := rfl

@[simp] theorem State.setPteAt_pte (s : State) (v : Vpn) (w : Word32) :
    (s.setPteAt v w).pte = s.pte.write (pteKey v) w := rfl

@[simp] theorem State.setPteAt_l2Used (s : State) (v : Vpn) (w : Word32) :
    (s.setPteAt v w).l2Used = s.l2Used := rfl

@[simp] theorem State.setPteAt_pageFault (s : State) (v : Vpn) (w : Word32) :
    (s.setPteAt v w).pageFault = s.pageFault := rfl

@[simp] theorem State.setPteAt_tlbReady (s : State) (v : Vpn) (w : Word32) :
    (s.setPteAt v w).tlbReady = s.tlbReady := rfl

@[simp] theorem State.setPteAt_tlb (s : State) (v : Vpn) (w : Word32) :
    (s.setPteAt v w).tlb = s.tlb := rfl

@[simp] theorem State.setPteAt_tlbMiss (s : State) (v : Vpn) (w : Word32) :
    (s.setPteAt v w).tlbMiss = s.tlbMiss := rfl

@[simp] theorem State.setPteAt_hand (s : State) (v : Vpn) (w : Word32) :
    (s.setPteAt v w).hand = s.hand := rfl

@[simp] theorem State.setPteAt_fault (s : State) (v : Vpn) (w : Word32) :
    (s.setPteAt v w).fault = s.fault := rfl

@[simp] theorem State.setPteAt_notify (s : State) (v : Vpn) (w : Word32) :
    (s.setPteAt v w).notify = s.notify := rfl

@[simp] theorem State.setPteAt_responses (s : State) (v : Vpn) (w : Word32) :
    (s.setPteAt v w).responses = s.responses := rfl

@[simp] theorem State.setPteAt_input (s : State) (v : Vpn) (w : Word32) :
    (s.setPteAt v w).input = s.input := rfl

@[simp] theorem State.setPteAt_draws (s : State) (v : Vpn) (w : Word32) :
    (s.setPteAt v w).draws = s.draws := rfl

/-! ### `State.allocateTable` -/

@[simp] theorem State.allocateTable_cfg (s : State) (i : TableIndex) :
    (s.allocateTable i).cfg = s.cfg := rfl

@[simp] theorem State.allocateTable_ptReady (s : State) (i : TableIndex) :
    (s.allocateTable i).ptReady = s.ptReady := rfl

@[simp] theorem State.allocateTable_l1a (s : State) (i : TableIndex) :
    (s.allocateTable i).l1a = setSlot s.l1a i := rfl

@[simp] theorem State.allocateTable_pte (s : State) (i : TableIndex) :
    (s.allocateTable i).pte = s.pte.zeroTable i := rfl

@[simp] theorem State.allocateTable_l2Used (s : State) (i : TableIndex) :
    (s.allocateTable i).l2Used = s.l2Used + 1 := rfl

@[simp] theorem State.allocateTable_pageFault (s : State) (i : TableIndex) :
    (s.allocateTable i).pageFault = s.pageFault := rfl

@[simp] theorem State.allocateTable_tlbReady (s : State) (i : TableIndex) :
    (s.allocateTable i).tlbReady = s.tlbReady := rfl

@[simp] theorem State.allocateTable_tlb (s : State) (i : TableIndex) :
    (s.allocateTable i).tlb = s.tlb := rfl

@[simp] theorem State.allocateTable_tlbMiss (s : State) (i : TableIndex) :
    (s.allocateTable i).tlbMiss = s.tlbMiss := rfl

@[simp] theorem State.allocateTable_hand (s : State) (i : TableIndex) :
    (s.allocateTable i).hand = s.hand := rfl

@[simp] theorem State.allocateTable_fault (s : State) (i : TableIndex) :
    (s.allocateTable i).fault = s.fault := rfl

@[simp] theorem State.allocateTable_notify (s : State) (i : TableIndex) :
    (s.allocateTable i).notify = s.notify := rfl

@[simp] theorem State.allocateTable_responses (s : State) (i : TableIndex) :
    (s.allocateTable i).responses = s.responses := rfl

@[simp] theorem State.allocateTable_input (s : State) (i : TableIndex) :
    (s.allocateTable i).input = s.input := rfl

@[simp] theorem State.allocateTable_draws (s : State) (i : TableIndex) :
    (s.allocateTable i).draws = s.draws := rfl

/-! ### `State.sendEvents` -/

@[simp] theorem State.sendEvents_cfg (s : State) (es : List Event) :
    (s.sendEvents es).cfg = s.cfg := rfl

@[simp] theorem State.sendEvents_ptReady (s : State) (es : List Event) :
    (s.sendEvents es).ptReady = s.ptReady := rfl

@[simp] theorem State.sendEvents_l1a (s : State) (es : List Event) :
    (s.sendEvents es).l1a = s.l1a := rfl

@[simp] theorem State.sendEvents_pte (s : State) (es : List Event) :
    (s.sendEvents es).pte = s.pte := rfl

@[simp] theorem State.sendEvents_l2Used (s : State) (es : List Event) :
    (s.sendEvents es).l2Used = s.l2Used := rfl

@[simp] theorem State.sendEvents_pageFault (s : State) (es : List Event) :
    (s.sendEvents es).pageFault = s.pageFault := rfl

@[simp] theorem State.sendEvents_tlbReady (s : State) (es : List Event) :
    (s.sendEvents es).tlbReady = s.tlbReady := rfl

@[simp] theorem State.sendEvents_tlb (s : State) (es : List Event) :
    (s.sendEvents es).tlb = s.tlb := rfl

@[simp] theorem State.sendEvents_tlbMiss (s : State) (es : List Event) :
    (s.sendEvents es).tlbMiss = s.tlbMiss := rfl

@[simp] theorem State.sendEvents_hand (s : State) (es : List Event) :
    (s.sendEvents es).hand = s.hand := rfl

@[simp] theorem State.sendEvents_fault (s : State) (es : List Event) :
    (s.sendEvents es).fault = s.fault := rfl

@[simp] theorem State.sendEvents_notify (s : State) (es : List Event) :
    (s.sendEvents es).notify = s.notify ++ es := rfl

@[simp] theorem State.sendEvents_responses (s : State) (es : List Event) :
    (s.sendEvents es).responses = s.responses := rfl

@[simp] theorem State.sendEvents_input (s : State) (es : List Event) :
    (s.sendEvents es).input = s.input := rfl

@[simp] theorem State.sendEvents_draws (s : State) (es : List Event) :
    (s.sendEvents es).draws = s.draws := rfl

/-! ### `State.evictAndFill` -/

@[simp] theorem State.evictAndFill_cfg (s : State) (v : Nat) (vpn : Vpn) (pfn : Pfn) (m r : Bool) :
    (s.evictAndFill v vpn pfn m r).cfg = s.cfg := rfl

@[simp] theorem State.evictAndFill_ptReady (s : State) (v : Nat) (vpn : Vpn) (pfn : Pfn) (m r : Bool) :
    (s.evictAndFill v vpn pfn m r).ptReady = s.ptReady := rfl

@[simp] theorem State.evictAndFill_l1a (s : State) (v : Nat) (vpn : Vpn) (pfn : Pfn) (m r : Bool) :
    (s.evictAndFill v vpn pfn m r).l1a = s.l1a := rfl

@[simp] theorem State.evictAndFill_pte (s : State) (v : Nat) (vpn : Vpn) (pfn : Pfn) (m r : Bool) :
    (s.evictAndFill v vpn pfn m r).pte = s.pte := rfl

@[simp] theorem State.evictAndFill_l2Used (s : State) (v : Nat) (vpn : Vpn) (pfn : Pfn) (m r : Bool) :
    (s.evictAndFill v vpn pfn m r).l2Used = s.l2Used := rfl

@[simp] theorem State.evictAndFill_pageFault (s : State) (v : Nat) (vpn : Vpn) (pfn : Pfn) (m r : Bool) :
    (s.evictAndFill v vpn pfn m r).pageFault = s.pageFault := rfl

@[simp] theorem State.evictAndFill_tlbReady (s : State) (v : Nat) (vpn : Vpn) (pfn : Pfn) (m r : Bool) :
    (s.evictAndFill v vpn pfn m r).tlbReady = s.tlbReady := rfl

@[simp] theorem State.evictAndFill_tlb (s : State) (v : Nat) (vpn : Vpn) (pfn : Pfn) (m r : Bool) :
    (s.evictAndFill v vpn pfn m r).tlb = s.tlb.set v (TlbEntry.filled vpn pfn m r) := rfl

@[simp] theorem State.evictAndFill_tlbMiss (s : State) (v : Nat) (vpn : Vpn) (pfn : Pfn) (m r : Bool) :
    (s.evictAndFill v vpn pfn m r).tlbMiss = s.tlbMiss := rfl

@[simp] theorem State.evictAndFill_hand (s : State) (v : Nat) (vpn : Vpn) (pfn : Pfn) (m r : Bool) :
    (s.evictAndFill v vpn pfn m r).hand = s.handAfter v := rfl

@[simp] theorem State.evictAndFill_fault (s : State) (v : Nat) (vpn : Vpn) (pfn : Pfn) (m r : Bool) :
    (s.evictAndFill v vpn pfn m r).fault = s.fault := rfl

@[simp] theorem State.evictAndFill_notify (s : State) (v : Nat) (vpn : Vpn) (pfn : Pfn) (m r : Bool) :
    (s.evictAndFill v vpn pfn m r).notify = s.notify ++ writeBackEvents (s.entry v) := rfl

@[simp] theorem State.evictAndFill_responses (s : State) (v : Nat) (vpn : Vpn) (pfn : Pfn) (m r : Bool) :
    (s.evictAndFill v vpn pfn m r).responses = s.responses := rfl

@[simp] theorem State.evictAndFill_input (s : State) (v : Nat) (vpn : Vpn) (pfn : Pfn) (m r : Bool) :
    (s.evictAndFill v vpn pfn m r).input = s.input := rfl

@[simp] theorem State.evictAndFill_draws (s : State) (v : Nat) (vpn : Vpn) (pfn : Pfn) (m r : Bool) :
    (s.evictAndFill v vpn pfn m r).draws = s.draws := rfl

/-! ### `State.withFetchWord` -/

@[simp] theorem State.withFetchWord_cfg (s : State) (nbits w : Nat) :
    (s.withFetchWord nbits w).cfg = s.cfg := rfl

@[simp] theorem State.withFetchWord_ptReady (s : State) (nbits w : Nat) :
    (s.withFetchWord nbits w).ptReady = s.ptReady := rfl

@[simp] theorem State.withFetchWord_l1a (s : State) (nbits w : Nat) :
    (s.withFetchWord nbits w).l1a = s.l1a := rfl

@[simp] theorem State.withFetchWord_pte (s : State) (nbits w : Nat) :
    (s.withFetchWord nbits w).pte = s.pte := rfl

@[simp] theorem State.withFetchWord_l2Used (s : State) (nbits w : Nat) :
    (s.withFetchWord nbits w).l2Used = s.l2Used := rfl

@[simp] theorem State.withFetchWord_pageFault (s : State) (nbits w : Nat) :
    (s.withFetchWord nbits w).pageFault = s.pageFault := rfl

@[simp] theorem State.withFetchWord_tlbReady (s : State) (nbits w : Nat) :
    (s.withFetchWord nbits w).tlbReady = s.tlbReady := rfl

@[simp] theorem State.withFetchWord_tlb (s : State) (nbits w : Nat) :
    (s.withFetchWord nbits w).tlb = s.tlb := rfl

@[simp] theorem State.withFetchWord_tlbMiss (s : State) (nbits w : Nat) :
    (s.withFetchWord nbits w).tlbMiss = s.tlbMiss := rfl

@[simp] theorem State.withFetchWord_hand (s : State) (nbits w : Nat) :
    (s.withFetchWord nbits w).hand = s.hand := rfl

@[simp] theorem State.withFetchWord_fault (s : State) (nbits w : Nat) :
    (s.withFetchWord nbits w).fault = s.fault := rfl

@[simp] theorem State.withFetchWord_notify (s : State) (nbits w : Nat) :
    (s.withFetchWord nbits w).notify = s.notify := rfl

@[simp] theorem State.withFetchWord_responses (s : State) (nbits w : Nat) :
    (s.withFetchWord nbits w).responses = s.responses := rfl

@[simp] theorem State.withFetchWord_input (s : State) (nbits w : Nat) :
    (s.withFetchWord nbits w).input = tableWord nbits w :: s.input := rfl

@[simp] theorem State.withFetchWord_draws (s : State) (nbits w : Nat) :
    (s.withFetchWord nbits w).draws = s.draws := rfl

/-! ### `State.resetOf` -/

@[simp] theorem State.resetOf_cfg (cfg : Config) :
    (State.resetOf cfg).cfg = cfg := rfl

@[simp] theorem State.resetOf_ptReady (cfg : Config) :
    (State.resetOf cfg).ptReady = false := rfl

@[simp] theorem State.resetOf_l1a (cfg : Config) :
    (State.resetOf cfg).l1a = [] := rfl

@[simp] theorem State.resetOf_pte (cfg : Config) :
    (State.resetOf cfg).pte = [] := rfl

@[simp] theorem State.resetOf_l2Used (cfg : Config) :
    (State.resetOf cfg).l2Used = 0 := rfl

@[simp] theorem State.resetOf_pageFault (cfg : Config) :
    (State.resetOf cfg).pageFault = none := rfl

@[simp] theorem State.resetOf_tlbReady (cfg : Config) :
    (State.resetOf cfg).tlbReady = false := rfl

@[simp] theorem State.resetOf_tlb (cfg : Config) :
    (State.resetOf cfg).tlb = List.replicate cfg.n ⟨0, 0⟩ := rfl

@[simp] theorem State.resetOf_tlbMiss (cfg : Config) :
    (State.resetOf cfg).tlbMiss = none := rfl

@[simp] theorem State.resetOf_hand (cfg : Config) :
    (State.resetOf cfg).hand = 0 := rfl

@[simp] theorem State.resetOf_fault (cfg : Config) :
    (State.resetOf cfg).fault = .none := rfl

@[simp] theorem State.resetOf_notify (cfg : Config) :
    (State.resetOf cfg).notify = [] := rfl

@[simp] theorem State.resetOf_responses (cfg : Config) :
    (State.resetOf cfg).responses = [] := rfl

@[simp] theorem State.resetOf_input (cfg : Config) :
    (State.resetOf cfg).input = [] := rfl

@[simp] theorem State.resetOf_draws (cfg : Config) :
    (State.resetOf cfg).draws = 0 := rfl

end Sys2Proof.Machine
end

