-- ==== Sys2Proof/Laws/Memory.lean ====
section
/-! SUPPORT. The PTE storage: what is read after each write, and that every storage operation keeps the
canonical form. -/

namespace Sys2Proof.Machine

/-! ### Reading after an operation -/

@[simp] theorem Memory.read_nil (a : Nat) : Memory.read [] a = unlistedPte := rfl

theorem Memory.read_cons (b : Nat) (w : Word32) (m : Memory) (a : Nat) :
    Memory.read ((b, w) :: m) a = if b = a then w else Memory.read m a := rfl

/-- Dropping cells that a key does not name leaves its word; dropping all that it names leaves 0. -/
theorem Memory.read_filter (m : Memory) (p : Nat → Bool) (a : Nat) :
    Memory.read (m.filter fun c => p c.1) a = if p a then Memory.read m a else unlistedPte := by
  induction m with
  | nil => simp
  | cons c m ih =>
    obtain ⟨b, w⟩ := c
    by_cases hb : p b <;> by_cases hba : b = a
    · subst hba; simp [hb, Memory.read_cons]
    · simp [hb, Memory.read_cons, hba, ih]
    · subst hba; simp [hb, ih]
    · simp [hb, Memory.read_cons, hba, ih]

theorem Memory.read_erase (m : Memory) (a b : Nat) :
    Memory.read (m.erase a) b = if b = a then unlistedPte else Memory.read m b := by
  simp only [Memory.erase, Memory.read_filter m (fun k => k != a) b]
  by_cases h : b = a <;> simp [h]

theorem Memory.read_place (m : Memory) (a : Nat) (w : Word32) (b : Nat) :
    Memory.read (m.place a w) b = if b = a then w else Memory.read m b := by
  induction m with
  | nil => by_cases h : b = a <;> simp [Memory.place, Memory.read_cons, h, Ne.symm]
  | cons c m ih =>
    obtain ⟨k, x⟩ := c
    by_cases hk : k < a
    · have hka : k ≠ a := by omega
      by_cases h : b = a
      · subst h; simp [Memory.place, hk, Memory.read_cons, hka, ih]
      · simp [Memory.place, hk, Memory.read_cons, h, ih]
    · by_cases h : b = a
      · subst h; simp [Memory.place, hk, Memory.read_cons]
      · simp [Memory.place, hk, Memory.read_cons, h, Ne.symm h]

/-- A read after a write: the word written at its key, the old word everywhere else. -/
theorem Memory.read_write (m : Memory) (a : Nat) (w : Word32) (b : Nat) :
    Memory.read (m.write a w) b = if b = a then w else Memory.read m b := by
  unfold Memory.write
  split
  · next h => by_cases hb : b = a <;> simp [Memory.read_erase, hb, h]
  · by_cases hb : b = a <;> simp [Memory.read_place, Memory.read_erase, hb]

/-- A read after a table is zeroed: 0 in that table, the old word everywhere else. -/
theorem Memory.read_zeroTable (m : Memory) (i : TableIndex) (b : Nat) :
    Memory.read (m.zeroTable i) b =
      if slotOfKey b = i.toNat then unlistedPte else Memory.read m b := by
  simp only [Memory.zeroTable, Memory.read_filter m (fun k => slotOfKey k != i.toNat) b]
  by_cases h : slotOfKey b = i.toNat <;> simp [h]

/-! ### The canonical form -/

/-- Every listed cell of a canonical storage is listed for a reason: its key is a VPN's and its word is
not what an unlisted PTE reads as. -/
theorem Memory.wf_iff (m : Memory) :
    m.wf = true ↔
      m.Pairwise (fun c d => c.1 < d.1) ∧ ∀ c ∈ m, c.1 < 2 ^ 20 ∧ c.2 ≠ unlistedPte := by
  induction m with
  | nil => simp [Memory.wf]
  | cons c m ih =>
    obtain ⟨a, w⟩ := c
    cases m with
    | nil => simp [Memory.wf]
    | cons d m =>
      obtain ⟨b, x⟩ := d
      simp only [Memory.wf, Bool.and_eq_true, decide_eq_true_eq, bne_iff_ne, ih]
      constructor
      · rintro ⟨⟨hab, hw⟩, hp, hc⟩
        have hb := (List.pairwise_cons.mp hp).1
        refine ⟨List.pairwise_cons.mpr ⟨?_, hp⟩, ?_⟩
        · intro e he
          rcases List.mem_cons.mp he with rfl | he
          · exact hab
          · exact lt_trans hab (hb e he)
        · intro e he
          rcases List.mem_cons.mp he with rfl | he
          · exact ⟨lt_trans hab (hc (b, x) (by simp)).1, hw⟩
          · exact hc e he
      · rintro ⟨hp, hc⟩
        obtain ⟨hlt, hp⟩ := List.pairwise_cons.mp hp
        exact ⟨⟨hlt (b, x) (by simp), (hc (a, w) (by simp)).2⟩, hp,
          fun e he => hc e (List.mem_cons_of_mem _ he)⟩

theorem Memory.wf_nil : Memory.wf [] = true := rfl

/-- Dropping cells keeps the form. -/
theorem Memory.wf_filter {m : Memory} (h : m.wf = true) (p : Nat × Word32 → Bool) :
    Memory.wf (m.filter p) = true := by
  rw [Memory.wf_iff] at h ⊢
  exact ⟨h.1.sublist List.filter_sublist, fun c hc => h.2 c (List.mem_filter.mp hc).1⟩

theorem Memory.wf_erase {m : Memory} (h : m.wf = true) (a : Nat) : (m.erase a).wf = true :=
  Memory.wf_filter h _

theorem Memory.wf_zeroTable {m : Memory} (h : m.wf = true) (i : TableIndex) :
    (m.zeroTable i).wf = true :=
  Memory.wf_filter h _

theorem Memory.mem_place {m : Memory} {a : Nat} {w : Word32} {c : Nat × Word32} :
    c ∈ m.place a w ↔ c = (a, w) ∨ c ∈ m := by
  induction m with
  | nil => simp [Memory.place]
  | cons d m ih =>
    obtain ⟨b, x⟩ := d
    unfold Memory.place
    split
    · simp only [List.mem_cons, ih]; tauto
    · simp

theorem Memory.wf_place {m : Memory} (h : m.wf = true) {a : Nat} {w : Word32}
    (ha : a < 2 ^ 20) (hw : w ≠ unlistedPte) (hfree : ∀ c ∈ m, c.1 ≠ a) :
    (m.place a w).wf = true := by
  rw [Memory.wf_iff] at h ⊢
  obtain ⟨hp, hc⟩ := h
  refine ⟨?_, ?_⟩
  · induction m with
    | nil => simp [Memory.place]
    | cons d m ih =>
      obtain ⟨b, x⟩ := d
      obtain ⟨hlt, hp'⟩ := List.pairwise_cons.mp hp
      unfold Memory.place
      split
      · next hb =>
        refine List.pairwise_cons.mpr ⟨?_, ih (fun c hm => hfree c (by simp [hm])) hp'
          (fun c hm => hc c (by simp [hm]))⟩
        intro e he
        rcases Memory.mem_place.mp he with rfl | he
        · exact hb
        · exact hlt e he
      · next hb =>
        have hba : b ≠ a := hfree (b, x) (by simp)
        refine List.pairwise_cons.mpr ⟨?_, hp⟩
        intro e he
        rcases List.mem_cons.mp he with rfl | he
        · show a < b; omega
        · have : b < e.1 := hlt e he
          show a < e.1; omega
  · intro c hm
    rcases Memory.mem_place.mp hm with rfl | hm
    · exact ⟨ha, hw⟩
    · exact hc c hm

/-- A write keeps the canonical form. -/
theorem Memory.wf_write {m : Memory} (h : m.wf = true) {a : Nat} (ha : a < 2 ^ 20) (w : Word32) :
    (m.write a w).wf = true := by
  unfold Memory.write
  split
  · exact Memory.wf_erase h a
  · next hw =>
    refine Memory.wf_place (Memory.wf_erase h a) ha hw ?_
    intro c hc
    simpa using (List.mem_filter.mp hc).2

/-! ### At the state -/

theorem pteKey_lt (v : Vpn) : pteKey v < 2 ^ 20 := v.isLt

theorem pteKey_inj {u v : Vpn} : pteKey u = pteKey v ↔ u = v := BitVec.toNat_inj

/-- The slot that owns a VPN's PTE is its first-level index (R55). -/
theorem slotOfKey_pteKey (v : Vpn) : slotOfKey (pteKey v) = (l1 v).toNat := by
  have := v.isLt
  simp only [slotOfKey, pteKey, l1, BitVec.extractLsb'_toNat, Nat.shiftRight_eq_div_pow]
  omega

@[simp] theorem State.pteAt_setPteAt (s : State) (v : Vpn) (w : Word32) (u : Vpn) :
    (s.setPteAt v w).pteAt u = if u = v then w else s.pteAt u := by
  simp [State.pteAt, Memory.read_write, pteKey_inj]

@[simp] theorem State.pteAt_allocateTable (s : State) (i : TableIndex) (u : Vpn) :
    (s.allocateTable i).pteAt u = if l1 u = i then 0 else s.pteAt u := by
  simp only [State.pteAt, State.allocateTable_pte, Memory.read_zeroTable, slotOfKey_pteKey,
    BitVec.toNat_inj]
  rfl

/-- The storage after power-on reset has the canonical form. -/
theorem State.resetOf_pte_wf (cfg : Config) : (State.resetOf cfg).pte.wf = true := rfl

end Sys2Proof.Machine
end

