-- ==== Sys2Proof/Laws/Operands.lean ====
section
/-! SUPPORT. What the words written by the commands hold, field by field (R52 to R55). -/

namespace Sys2Proof.Machine

/-! ### The index split (R55) -/

@[simp] theorem l1_vpnOf (i j : TableIndex) : l1 (vpnOf i j) = i := by
  apply BitVec.eq_of_getLsbD_eq
  intro k hk
  simp only [l1, vpnOf, BitVec.getLsbD_extractLsb', BitVec.getLsbD_append]
  simp [hk]

@[simp] theorem l2_vpnOf (i j : TableIndex) : l2 (vpnOf i j) = j := by
  apply BitVec.eq_of_getLsbD_eq
  intro k hk
  simp only [l2, vpnOf, BitVec.getLsbD_extractLsb', BitVec.getLsbD_append]
  simp [hk]

/-! ### The PTE (R52) -/

/-- Bit `k` of `0x7FFFFFFF`. -/
theorem getLsbD_keepMask (k : Nat) (hk : k < 32) :
    (0x7FFFFFFF#32).getLsbD k = decide (k ≠ 31) := by
  interval_cases k <;> rfl

/-- Bit `k` of `0x80000000`. -/
theorem getLsbD_topBit (k : Nat) (hk : k < 32) :
    (0x80000000#32).getLsbD k = decide (k = 31) := by
  interval_cases k <;> rfl

/-- Bit `k` of `0xC0000000`. -/
theorem getLsbD_topTwoBits (k : Nat) (hk : k < 32) :
    (0xC0000000#32).getLsbD k = decide (30 ≤ k) := by
  interval_cases k <;> rfl

@[simp] theorem ptePresent_mapping (f : Pfn) : ptePresent (pteMapping f) = true := by
  simp [ptePresent, pteMapping]

@[simp] theorem pteFrame_mapping (f : Pfn) : pteFrame (pteMapping f) = f := by
  apply BitVec.eq_of_getLsbD_eq
  intro k hk
  have h : (0x80000000#32).getLsbD k = false := by
    rw [getLsbD_topBit k (by omega)]; simp; omega
  have h2 : k < 32 := by omega
  simp only [pteFrame, pteMapping, BitVec.getLsbD_extractLsb', Nat.zero_add, BitVec.getLsbD_or, h,
    BitVec.getLsbD_setWidth]
  simp [hk, h2]

@[simp] theorem pteUnused_mapping (f : Pfn) : pteUnused (pteMapping f) = 0 := by
  apply BitVec.eq_of_getLsbD_eq
  intro k hk
  have h : (0x80000000#32).getLsbD (20 + k) = false := by
    rw [getLsbD_topBit _ (by omega)]; simp; omega
  simp [pteUnused, pteMapping, h]

@[simp] theorem ptePresent_cleared (w : Word32) : ptePresent (pteCleared w) = false := by
  simp [ptePresent, pteCleared]

@[simp] theorem pteFrame_cleared (w : Word32) : pteFrame (pteCleared w) = pteFrame w := by
  apply BitVec.eq_of_getLsbD_eq
  intro k hk
  have h : (0x7FFFFFFF#32).getLsbD k = true := by
    rw [getLsbD_keepMask k (by omega)]; simp; omega
  simp [pteFrame, pteCleared, hk, h]

@[simp] theorem pteUnused_cleared (w : Word32) : pteUnused (pteCleared w) = pteUnused w := by
  apply BitVec.eq_of_getLsbD_eq
  intro k hk
  have h : (0x7FFFFFFF#32).getLsbD (20 + k) = true := by
    rw [getLsbD_keepMask _ (by omega)]; simp; omega
  simp [pteUnused, pteCleared, h]

theorem pteUnused_zero : pteUnused 0 = 0 := by decide

end Sys2Proof.Machine

namespace Sys2Proof

open Machine

/-! ### TLB entries (R53, R54) -/

@[simp] theorem TlbEntry.invalidated_valid (e : TlbEntry) : e.invalidated.valid = false := by
  simp [TlbEntry.valid, TlbEntry.invalidated]

/-- Bits 30:0 of `W1` are kept by an invalidation (R144, R146). -/
@[simp] theorem TlbEntry.invalidated_w1_low (e : TlbEntry) :
    e.invalidated.w1.extractLsb' 0 31 = e.w1.extractLsb' 0 31 := by
  apply BitVec.eq_of_getLsbD_eq
  intro k hk
  have h : (0x7FFFFFFF#32).getLsbD k = true := by
    rw [getLsbD_keepMask k (by omega)]; simp; omega
  simp [TlbEntry.invalidated, hk, h]

@[simp] theorem TlbEntry.invalidated_w2 (e : TlbEntry) : e.invalidated.w2 = e.w2 := rfl

@[simp] theorem TlbEntry.invalidated_vpn (e : TlbEntry) : e.invalidated.vpn = e.vpn := by
  apply BitVec.eq_of_getLsbD_eq
  intro k hk
  have h : (0x7FFFFFFF#32).getLsbD k = true := by
    rw [getLsbD_keepMask k (by omega)]; simp; omega
  simp [TlbEntry.vpn, TlbEntry.invalidated, hk, h]

@[simp] theorem TlbEntry.invalidated_unused1 (e : TlbEntry) : e.invalidated.unused1 = e.unused1 := by
  apply BitVec.eq_of_getLsbD_eq
  intro k hk
  have h : (0x7FFFFFFF#32).getLsbD (20 + k) = true := by
    rw [getLsbD_keepMask _ (by omega)]; simp; omega
  simp [TlbEntry.unused1, TlbEntry.invalidated, h]

@[simp] theorem TlbEntry.invalidated_unused2 (e : TlbEntry) : e.invalidated.unused2 = e.unused2 :=
  rfl

@[simp] theorem TlbEntry.invalidated_holds (e : TlbEntry) (v : Vpn) :
    e.invalidated.holds v = false := by
  simp [TlbEntry.holds]

@[simp] theorem TlbEntry.unreferenced_w1 (e : TlbEntry) : e.unreferenced.w1 = e.w1 := rfl

@[simp] theorem TlbEntry.unreferenced_valid (e : TlbEntry) : e.unreferenced.valid = e.valid := rfl

@[simp] theorem TlbEntry.unreferenced_vpn (e : TlbEntry) : e.unreferenced.vpn = e.vpn := rfl

@[simp] theorem TlbEntry.unreferenced_unused1 (e : TlbEntry) :
    e.unreferenced.unused1 = e.unused1 := rfl

@[simp] theorem TlbEntry.unreferenced_holds (e : TlbEntry) (v : Vpn) :
    e.unreferenced.holds v = e.holds v := rfl

@[simp] theorem TlbEntry.unreferenced_referenced (e : TlbEntry) :
    e.unreferenced.referenced = false := by
  simp [TlbEntry.referenced, TlbEntry.unreferenced]

/-- Bits 30:0 of `W2` are kept when the reference bit is cleared (R145). -/
@[simp] theorem TlbEntry.unreferenced_w2_low (e : TlbEntry) :
    e.unreferenced.w2.extractLsb' 0 31 = e.w2.extractLsb' 0 31 := by
  apply BitVec.eq_of_getLsbD_eq
  intro k hk
  have h : (0x7FFFFFFF#32).getLsbD k = true := by
    rw [getLsbD_keepMask k (by omega)]; simp; omega
  simp [TlbEntry.unreferenced, hk, h]

@[simp] theorem TlbEntry.unreferenced_modified (e : TlbEntry) :
    e.unreferenced.modified = e.modified := by
  simp [TlbEntry.modified, TlbEntry.unreferenced]

@[simp] theorem TlbEntry.unreferenced_pfn (e : TlbEntry) : e.unreferenced.pfn = e.pfn := by
  apply BitVec.eq_of_getLsbD_eq
  intro k hk
  have h : (0x7FFFFFFF#32).getLsbD k = true := by
    rw [getLsbD_keepMask k (by omega)]; simp; omega
  simp [TlbEntry.pfn, TlbEntry.unreferenced, hk, h]

@[simp] theorem TlbEntry.unreferenced_unused2 (e : TlbEntry) :
    e.unreferenced.unused2 = e.unused2 := by
  apply BitVec.eq_of_getLsbD_eq
  intro k hk
  have h : (0x7FFFFFFF#32).getLsbD (20 + k) = true := by
    rw [getLsbD_keepMask _ (by omega)]; simp; omega
  simp [TlbEntry.unused2, TlbEntry.unreferenced, h]

/-- Bit `k` of the bits a hit sets (R142). -/
theorem getLsbD_hitBits (op : Access) (k : Nat) (hk : k < 32) :
    (hitBits op).getLsbD k = (decide (k = 31) || (decide (k = 30) && op == .store)) := by
  cases op
  · simp [hitBits, getLsbD_topBit k hk]
  · rw [hitBits, getLsbD_topTwoBits k hk]
    interval_cases k <;> rfl

@[simp] theorem TlbEntry.touched_w1 (op : Access) (e : TlbEntry) : (e.touched op).w1 = e.w1 := rfl

@[simp] theorem TlbEntry.touched_valid (op : Access) (e : TlbEntry) :
    (e.touched op).valid = e.valid := rfl

@[simp] theorem TlbEntry.touched_vpn (op : Access) (e : TlbEntry) : (e.touched op).vpn = e.vpn :=
  rfl

@[simp] theorem TlbEntry.touched_unused1 (op : Access) (e : TlbEntry) :
    (e.touched op).unused1 = e.unused1 := rfl

@[simp] theorem TlbEntry.touched_holds (op : Access) (e : TlbEntry) (v : Vpn) :
    (e.touched op).holds v = e.holds v := rfl

@[simp] theorem TlbEntry.touched_referenced (op : Access) (e : TlbEntry) :
    (e.touched op).referenced = true := by
  rw [TlbEntry.referenced, TlbEntry.touched, BitVec.getLsbD_or, getLsbD_hitBits op _ (by omega)]
  simp

@[simp] theorem TlbEntry.touched_modified (op : Access) (e : TlbEntry) :
    (e.touched op).modified = (e.modified || op == .store) := by
  rw [TlbEntry.modified, TlbEntry.touched, BitVec.getLsbD_or, getLsbD_hitBits op _ (by omega)]
  simp [TlbEntry.modified]

@[simp] theorem TlbEntry.touched_pfn (op : Access) (e : TlbEntry) : (e.touched op).pfn = e.pfn := by
  apply BitVec.eq_of_getLsbD_eq
  intro k hk
  have h : (hitBits op).getLsbD k = false := by
    rw [getLsbD_hitBits op k (by omega)]
    have h1 : k ≠ 31 := by omega
    have h2 : k ≠ 30 := by omega
    simp [h1, h2]
  simp [TlbEntry.pfn, TlbEntry.touched, hk, h]

@[simp] theorem TlbEntry.touched_unused2 (op : Access) (e : TlbEntry) :
    (e.touched op).unused2 = e.unused2 := by
  apply BitVec.eq_of_getLsbD_eq
  intro k hk
  have h : (hitBits op).getLsbD (20 + k) = false := by
    rw [getLsbD_hitBits op _ (by omega)]
    have h1 : 20 + k ≠ 31 := by omega
    have h2 : 20 + k ≠ 30 := by omega
    simp [h1, h2]
  simp [TlbEntry.unused2, TlbEntry.touched, h]

/-- Bit `k` of the second word that TLB_INSERT writes (R174). -/
theorem getLsbD_filled_w2 (v : Vpn) (f : Pfn) (m r : Bool) (k : Nat) (hk : k < 32) :
    (TlbEntry.filled v f m r).w2.getLsbD k =
      ((decide (k = 31) && r) || (decide (k = 30) && m) || f.getLsbD k) := by
  simp only [TlbEntry.filled, BitVec.getLsbD_or, BitVec.getLsbD_shiftLeft, BitVec.getLsbD_setWidth,
    BitVec.getLsbD_ofBool]
  by_cases h1 : k = 31
  · subst h1; cases r <;> cases m <;> simp
  · by_cases h2 : k = 30
    · subst h2; cases r <;> cases m <;> simp
    · have h3 : k < 30 := by omega
      have h4 : k < 31 := by omega
      simp [h1, h2, h3, h4, hk]

@[simp] theorem TlbEntry.filled_valid (v : Vpn) (f : Pfn) (m r : Bool) :
    (TlbEntry.filled v f m r).valid = true := by
  simp [TlbEntry.valid, TlbEntry.filled]

@[simp] theorem TlbEntry.filled_vpn (v : Vpn) (f : Pfn) (m r : Bool) :
    (TlbEntry.filled v f m r).vpn = v := by
  apply BitVec.eq_of_getLsbD_eq
  intro k hk
  have h : (0x80000000#32).getLsbD k = false := by
    rw [getLsbD_topBit k (by omega)]; simp; omega
  have h2 : k < 32 := by omega
  simp only [TlbEntry.vpn, TlbEntry.filled, BitVec.getLsbD_extractLsb', Nat.zero_add,
    BitVec.getLsbD_or, h, BitVec.getLsbD_setWidth]
  simp [hk, h2]

@[simp] theorem TlbEntry.filled_unused1 (v : Vpn) (f : Pfn) (m r : Bool) :
    (TlbEntry.filled v f m r).unused1 = 0 := by
  apply BitVec.eq_of_getLsbD_eq
  intro k hk
  have h : (0x80000000#32).getLsbD (20 + k) = false := by
    rw [getLsbD_topBit _ (by omega)]; simp; omega
  simp [TlbEntry.unused1, TlbEntry.filled, h]

@[simp] theorem TlbEntry.filled_referenced (v : Vpn) (f : Pfn) (m r : Bool) :
    (TlbEntry.filled v f m r).referenced = r := by
  rw [TlbEntry.referenced, getLsbD_filled_w2 _ _ _ _ _ (by omega)]
  simp

@[simp] theorem TlbEntry.filled_modified (v : Vpn) (f : Pfn) (m r : Bool) :
    (TlbEntry.filled v f m r).modified = m := by
  rw [TlbEntry.modified, getLsbD_filled_w2 _ _ _ _ _ (by omega)]
  simp

@[simp] theorem TlbEntry.filled_pfn (v : Vpn) (f : Pfn) (m r : Bool) :
    (TlbEntry.filled v f m r).pfn = f := by
  apply BitVec.eq_of_getLsbD_eq
  intro k hk
  have h1 : k ≠ 31 := by omega
  have h2 : k ≠ 30 := by omega
  rw [TlbEntry.pfn, BitVec.getLsbD_extractLsb', Nat.zero_add,
    getLsbD_filled_w2 _ _ _ _ _ (by omega)]
  simp [h1, h2, hk]

@[simp] theorem TlbEntry.filled_unused2 (v : Vpn) (f : Pfn) (m r : Bool) :
    (TlbEntry.filled v f m r).unused2 = 0 := by
  apply BitVec.eq_of_getLsbD_eq
  intro k hk
  have h1 : 20 + k ≠ 31 := by omega
  have h2 : 20 + k ≠ 30 := by omega
  rw [TlbEntry.unused2, BitVec.getLsbD_extractLsb', getLsbD_filled_w2 _ _ _ _ _ (by omega)]
  simp [h1, h2]

@[simp] theorem TlbEntry.filled_holds (v u : Vpn) (f : Pfn) (m r : Bool) :
    (TlbEntry.filled v f m r).holds u = (v == u) := by
  simp [TlbEntry.holds]

/-- The words of a filled entry, as R170 writes them. -/
theorem TlbEntry.filled_w1 (v : Vpn) (f : Pfn) (m r : Bool) :
    (TlbEntry.filled v f m r).w1 = 0x80000000#32 ||| v.setWidth 32 := rfl

/-- An entry that holds a VPN is valid and names it. -/
theorem TlbEntry.holds_iff (v : Vpn) (e : TlbEntry) :
    e.holds v = true ↔ e.valid = true ∧ e.vpn = v := by
  simp [TlbEntry.holds]

end Sys2Proof
end

