-- ==== Sys2Proof/Laws/Ops.lean ====
section
/-! SUPPORT. What each shared operation can do, said once. -/

namespace Sys2Proof.Machine

/-! ### Ending a command -/

@[simp] theorem complete_eq_next (r : Response) (s t : State) :
    complete r s = .next t ↔ t = { s with responses := s.responses ++ [r] } := by
  simp [complete, eq_comm]

@[simp] theorem raise_eq_next (c : FaultCode) (s t : State) :
    raise c s = .next t ↔ t = { s with fault := c } := by
  simp [raise, eq_comm]

@[simp] theorem completeAbsent_eq_next (s t : State) :
    completeAbsent s = .next t ↔
      t = { s with
        draws := s.draws + 1
        responses := s.responses ++ [.word (respAbsent s.drawn)] } :=
  complete_eq_next _ _ _

/-! ### Checks before a command -/

@[simp] theorem State.halted_eq_true (s : State) : s.halted = true ↔ s.fault ≠ .none := by
  simp [State.halted]

@[simp] theorem State.halted_eq_false (s : State) : s.halted = false ↔ s.fault = .none := by
  simp [State.halted]

theorem unlessHalted_of_running {s : State} (h : s.fault = .none) (body : Result) :
    unlessHalted s body = body := by
  simp [unlessHalted, h]

theorem unlessHalted_of_halted {s : State} (h : s.fault ≠ .none) (body : Result) :
    unlessHalted s body = .fault .halted := by
  simp [unlessHalted, h]

/-- All that a guarded outcome can be, when it is a next state. -/
theorem unlessHalted_eq_next {s t : State} {body : Result} :
    unlessHalted s body = .next t ↔ s.fault = .none ∧ body = .next t := by
  by_cases h : s.fault = .none <;> simp [unlessHalted, h]

theorem ptCommand_of_ready {s : State} (hf : s.fault = .none) (hr : s.ptReady = true)
    (body : Result) : ptCommand s body = body := by
  simp [ptCommand, unlessHalted_of_running hf, hr]

theorem ptCommand_of_not_ready {s : State} (hf : s.fault = .none) (hr : s.ptReady = false)
    (body : Result) : ptCommand s body = raise .notInitialized s := by
  simp [ptCommand, unlessHalted_of_running hf, hr]

theorem ptCommand_of_halted {s : State} (hf : s.fault ≠ .none) (body : Result) :
    ptCommand s body = .fault .halted :=
  unlessHalted_of_halted hf _

/-- All that a page-table command can be, when it answers a next state (R110). -/
theorem ptCommand_eq_next {s t : State} {body : Result} :
    ptCommand s body = .next t ↔
      s.fault = .none ∧
        (s.ptReady = true ∧ body = .next t ∨
          s.ptReady = false ∧ t = { s with fault := .notInitialized }) := by
  rw [ptCommand, unlessHalted_eq_next]
  split <;> simp_all

theorem tlbCommand_of_ready {s : State} (hf : s.fault = .none) (hr : s.tlbReady = true)
    (body : Result) : tlbCommand s body = body := by
  simp [tlbCommand, unlessHalted_of_running hf, hr]

theorem tlbCommand_of_not_ready {s : State} (hf : s.fault = .none) (hr : s.tlbReady = false)
    (body : Result) : tlbCommand s body = raise .notInitialized s := by
  simp [tlbCommand, unlessHalted_of_running hf, hr]

theorem tlbCommand_of_halted {s : State} (hf : s.fault ≠ .none) (body : Result) :
    tlbCommand s body = .fault .halted :=
  unlessHalted_of_halted hf _

/-- All that a TLB command can be, when it answers a next state (R140). -/
theorem tlbCommand_eq_next {s t : State} {body : Result} :
    tlbCommand s body = .next t ↔
      s.fault = .none ∧
        (s.tlbReady = true ∧ body = .next t ∨
          s.tlbReady = false ∧ t = { s with fault := .notInitialized }) := by
  rw [tlbCommand, unlessHalted_eq_next]
  split <;> simp_all

/-! ### First-level slots -/

theorem mem_setSlot (l : List TableIndex) (i j : TableIndex) :
    j ∈ setSlot l i ↔ j ∈ l ∨ j = i := by
  induction l with
  | nil => simp [setSlot]
  | cons k l ih =>
    unfold setSlot
    split
    · simp only [List.mem_cons, ih, or_assoc]
    · split
      · next h => subst h; simp only [List.mem_cons]; tauto
      · simp only [List.mem_cons]; tauto

@[simp] theorem State.slotAllocated_allocateTable (s : State) (i j : TableIndex) :
    (s.allocateTable i).slotAllocated j = (s.slotAllocated j || j == i) := by
  rw [Bool.eq_iff_iff]
  simp [State.slotAllocated, mem_setSlot]

@[simp] theorem State.slotAllocated_setPteAt (s : State) (v : Vpn) (w : Word32) (j : TableIndex) :
    (s.setPteAt v w).slotAllocated j = s.slotAllocated j := rfl

/-- The page-table translation finds a frame exactly for a present PTE of an allocated slot (R60). -/
theorem State.ptTranslate_eq_some {s : State} {v : Vpn} {f : Pfn} :
    s.ptTranslate v = some f ↔
      s.allocated v = true ∧ ptePresent (s.pteAt v) = true ∧ pteFrame (s.pteAt v) = f := by
  cases h1 : s.allocated v <;> cases h2 : ptePresent (s.pteAt v) <;>
    simp [State.ptTranslate, h1, h2]

theorem State.ptTranslate_eq_none {s : State} {v : Vpn} :
    s.ptTranslate v = none ↔ s.allocated v = false ∨ ptePresent (s.pteAt v) = false := by
  cases h1 : s.allocated v <;> cases h2 : ptePresent (s.pteAt v) <;>
    simp [State.ptTranslate, h1, h2]

/-! ### Entries of the TLB array -/

theorem State.entry_of_lt {s : State} {k : Nat} (h : k < s.tlb.length) : s.entry k = s.tlb[k] := by
  simp [State.entry, List.getD_eq_getElem?_getD, h]

theorem State.entry_of_ge {s : State} {k : Nat} (h : s.tlb.length ≤ k) : s.entry k = ⟨0, 0⟩ := by
  simp [State.entry, List.getD_eq_getElem?_getD, h]

theorem TlbEntry.zero_valid : (TlbEntry.mk 0 0).valid = false := by decide

theorem TlbEntry.zero_holds (v : Vpn) : (TlbEntry.mk 0 0).holds v = false := by
  rw [TlbEntry.holds, TlbEntry.zero_valid, Bool.false_and]

/-- Only a listed entry can be valid. -/
theorem State.lt_of_holds {s : State} {k : Nat} {v : Vpn} (h : (s.entry k).holds v = true) :
    k < s.tlb.length := by
  by_contra hk
  rw [State.entry_of_ge (by omega), TlbEntry.zero_holds] at h
  cases h

/-- Reading an entry of an array made by a map over the entries. -/
theorem getD_map_entry (l : List TlbEntry) (g : TlbEntry → TlbEntry) (k : Nat) :
    (l.map g).getD k ⟨0, 0⟩ = if k < l.length then g (l.getD k ⟨0, 0⟩) else ⟨0, 0⟩ := by
  by_cases h : k < l.length <;> simp [List.getD_eq_getElem?_getD, h]

/-- Reading an entry after one entry is replaced. -/
theorem getD_set_entry (l : List TlbEntry) (v : Nat) (e : TlbEntry) (k : Nat) :
    (l.set v e).getD k ⟨0, 0⟩ = if k = v ∧ k < l.length then e else l.getD k ⟨0, 0⟩ := by
  by_cases h : k = v <;> by_cases hk : k < l.length <;>
    simp [List.getD_eq_getElem?_getD, List.getElem?_set, h, hk, eq_comm] <;> grind

/-- Reading an entry after one entry is modified. -/
theorem getD_modify_entry (l : List TlbEntry) (v : Nat) (g : TlbEntry → TlbEntry) (k : Nat) :
    (l.modify v g).getD k ⟨0, 0⟩ =
      if k = v ∧ k < l.length then g (l.getD k ⟨0, 0⟩) else l.getD k ⟨0, 0⟩ := by
  by_cases h : k = v <;> by_cases hk : k < l.length <;>
    simp [List.getD_eq_getElem?_getD, h, hk] <;> grind

/-! ### Lookup -/

/-- A hit is the lowest-index entry that holds the VPN (R61). -/
theorem State.tlbFind_eq_some {s : State} {v : Vpn} {k : Nat} :
    s.tlbFind v = some k ↔
      (s.entry k).holds v = true ∧ ∀ j, j < k → (s.entry j).holds v = false := by
  rw [State.tlbFind, List.findIdx?_eq_some_iff_getElem]
  constructor
  · rintro ⟨hk, hh, hlt⟩
    refine ⟨by rwa [State.entry_of_lt hk], fun j hj => ?_⟩
    rw [State.entry_of_lt (lt_trans hj hk)]
    simpa using hlt j hj
  · rintro ⟨hh, hlt⟩
    have hk := State.lt_of_holds hh
    refine ⟨hk, by rwa [State.entry_of_lt hk] at hh, fun j hj => ?_⟩
    have := hlt j hj
    rw [State.entry_of_lt (lt_trans hj hk)] at this
    simp [this]

/-- A miss is an array in which no entry holds the VPN (R61, R143). -/
theorem State.tlbFind_eq_none {s : State} {v : Vpn} :
    s.tlbFind v = none ↔ ∀ k, (s.entry k).holds v = false := by
  rw [State.tlbFind, List.findIdx?_eq_none_iff]
  constructor
  · intro h k
    by_cases hk : k < s.tlb.length
    · rw [State.entry_of_lt hk]; simpa using h _ (List.getElem_mem hk)
    · rw [State.entry_of_ge (by omega), TlbEntry.zero_holds]
  · intro h e he
    obtain ⟨k, hk, rfl⟩ := List.getElem_of_mem he
    have := h k
    rw [State.entry_of_lt hk] at this
    simp [this]

/-! ### The victim -/

/-- The victim the model computes is the one R171 and R172 describe. -/
theorem State.victim_isVictim {s : State} (h : TlbHasCapacity s) : IsVictim s s.victim := by
  unfold State.victim
  split
  · next k hk =>
    left
    rw [List.findIdx?_eq_some_iff_getElem] at hk
    obtain ⟨hlt, hc, hmin⟩ := hk
    rw [List.length_drop, h] at hlt
    have hlen : s.hand.toNat + k < s.tlb.length := by rw [h]; omega
    refine ⟨by omega, by omega, ?_, ?_⟩
    · rw [State.entry_of_lt hlen]; simpa using hc
    · intro j h1 h2
      have h3 : j < s.tlb.length := by omega
      have := hmin (j - s.hand.toNat) (by omega)
      rw [State.entry_of_lt h3]
      have hj : s.hand.toNat + (j - s.hand.toNat) = j := by omega
      simpa [List.getElem_drop, hj] using this
  · next hk =>
    right
    rw [List.findIdx?_eq_none_iff] at hk
    refine ⟨rfl, fun j h1 h2 => ?_⟩
    have h3 : j < s.tlb.length := by rw [h]; exact h2
    rw [State.entry_of_lt h3]
    have hm : s.tlb[j] ∈ s.tlb.drop s.hand.toNat :=
      List.mem_drop_iff_getElem.mpr ⟨j - s.hand.toNat, by omega, by congr 1; omega⟩
    simpa using hk _ hm

/-- There is only one victim. -/
theorem IsVictim.unique {s : State} {u v : Nat} (hu : IsVictim s u) (hv : IsVictim s v) : u = v := by
  rcases hu with ⟨a1, a2, a3, a4⟩ | ⟨a1, a2⟩ <;> rcases hv with ⟨b1, b2, b3, b4⟩ | ⟨b1, b2⟩
  · rcases Nat.lt_trichotomy u v with h | h | h
    · simp [b4 u a1 h] at a3
    · exact h
    · simp [a4 v b1 h] at b3
  · simp [b2 u a1 a2] at a3
  · simp [a2 v b1 b2] at b3
  · omega

/-- The model's uniqueness check is R173's. -/
theorem State.heldElsewhere_iff {s : State} (h : TlbHasCapacity s) {v : Nat} {vpn : Vpn} :
    s.heldElsewhere v vpn = true ↔ HeldElsewhere s v vpn := by
  rw [State.heldElsewhere, List.any_eq_true]
  constructor
  · rintro ⟨e, he, hh⟩
    obtain ⟨j, hj, hne⟩ := (List.mem_eraseIdx_iff_getElem).mp he
    obtain ⟨hlt, hje⟩ := hne
    refine ⟨j, by rw [← h]; exact hj, hlt, ?_⟩
    rw [State.entry_of_lt hj, hje]; exact hh
  · rintro ⟨j, hj, hne, hh⟩
    have hlt : j < s.tlb.length := by rw [h]; exact hj
    refine ⟨s.entry j, ?_, hh⟩
    rw [State.entry_of_lt hlt]
    exact (List.mem_eraseIdx_iff_getElem).mpr ⟨j, hlt, hne, rfl⟩

/-- The hand after an insertion, as a number: `(v + 1) mod N`, which fits its 20 bits (R175, R26). -/
theorem State.handAfter_toNat (s : State) (v : Nat) :
    (s.handAfter v).toNat = (v + 1) % s.cfg.n := by
  have h := s.cfg.n_range
  have h2 := Nat.mod_lt (v + 1) (show 0 < s.cfg.n by omega)
  rw [State.handAfter, BitVec.toNat_ofNat, Nat.mod_eq_of_lt (by omega)]

/-! ### Write-back -/

theorem writeBackEvents_of_valid {e : TlbEntry} (h : e.valid = true) :
    writeBackEvents e = [⟨.ref, e.pfn, e.referenced⟩, ⟨.mod, e.pfn, e.modified⟩] := by
  simp [writeBackEvents, h]

theorem writeBackEvents_of_invalid {e : TlbEntry} (h : e.valid = false) :
    writeBackEvents e = [] := by
  simp [writeBackEvents, h]

end Sys2Proof.Machine
end

