-- ==== Sys2Proof/Laws/Commands.lean ====
section
/-! SUPPORT. Everything a command can do, said once: a claim about commands is proved from `CommandEffect`
and never unfolds a meaning. -/

namespace Sys2Proof.Machine

/-- The effect of a command that answers a next state from a running engine: the fault it records, or what
it changes and answers. One constructor for each way each command can end. -/
inductive CommandEffect : Instr → State → State → Prop where
  /-- The command records a fault (R222). -/
  | faults {i : Instr} {s : State} (c : FaultCode) (hc : c ≠ .none) :
      CommandEffect i s { s with fault := c }
  /-- R111. -/
  | ptInit {s : State} (h : s.ptReady = false) :
      CommandEffect .ptInit s { s with
        l1a := [], l2Used := 0, ptReady := true, responses := s.responses ++ [.respNone] }
  /-- R112, a present mapping. -/
  | ptGetFrameFound {s : State} {v : Vpn} (f : Pfn) (hr : s.ptReady = true)
      (h : s.ptTranslate v = some f) :
      CommandEffect (.ptGetFrame v) s { s with
        pageFault := some false, responses := s.responses ++ [.word (respFound f)] }
  /-- R112, a page fault. -/
  | ptGetFrameAbsent {s : State} {v : Vpn} (hr : s.ptReady = true) (h : s.ptTranslate v = none) :
      CommandEffect (.ptGetFrame v) s { s with
        pageFault := some true, draws := s.draws + 1
        responses := s.responses ++ [.word (respAbsent s.drawn)] }
  /-- R113, the slot allocated already. -/
  | ptUpdateAllocated {s : State} {v : Vpn} {f : Pfn} (hr : s.ptReady = true)
      (h : s.allocated v = true) :
      CommandEffect (.ptUpdate v f) s
        { s.setPteAt v (pteMapping f) with responses := s.responses ++ [.respNone] }
  /-- R113, the slot allocated now. -/
  | ptUpdateAllocates {s : State} {v : Vpn} {f : Pfn} (hr : s.ptReady = true)
      (h : s.allocated v = false) (hp : s.poolUsedUp = false) :
      CommandEffect (.ptUpdate v f) s
        { (s.allocateTable (l1 v)).setPteAt v (pteMapping f) with
          responses := s.responses ++ [.respNone] }
  /-- R114, the slot allocated. -/
  | ptClearEntry {s : State} {v : Vpn} (hr : s.ptReady = true) (h : s.allocated v = true) :
      CommandEffect (.ptClearEntry v) s
        { s.setPteAt v (pteCleared (s.pteAt v)) with responses := s.responses ++ [.respNone] }
  /-- R114, the slot not allocated. -/
  | ptClearEntryNothing {s : State} {v : Vpn} (hr : s.ptReady = true) (h : s.allocated v = false) :
      CommandEffect (.ptClearEntry v) s { s with responses := s.responses ++ [.respNone] }
  /-- R115. -/
  | ptReadPte {s : State} {v : Vpn} (hr : s.ptReady = true) :
      CommandEffect (.ptReadPte v) s { s with responses := s.responses ++
        [.word (if s.allocated v then respPte (s.pteAt v) else respL2Absent)] }
  /-- R141. -/
  | tlbInit {s : State} (h : s.tlbReady = false) :
      CommandEffect .tlbInit s { s with
        tlb := s.cfg.tlbInitContents.map TlbEntry.invalidated, hand := 0, tlbReady := true
        responses := s.responses ++ [.respNone] }
  /-- R142, a hit. -/
  | tlbLookupHit {s : State} {v : Vpn} {op : Access} (k : Nat) (hr : s.tlbReady = true)
      (h : s.tlbFind v = some k) :
      CommandEffect (.tlbLookup v op) s { s with
        tlbMiss := some false, tlb := s.tlb.modify k (TlbEntry.touched op)
        responses := s.responses ++ [.word (respFound (s.entry k).pfn)] }
  /-- R142, a miss. -/
  | tlbLookupMiss {s : State} {v : Vpn} {op : Access} (hr : s.tlbReady = true)
      (h : s.tlbFind v = none) :
      CommandEffect (.tlbLookup v op) s { s with
        tlbMiss := some true, draws := s.draws + 1
        responses := s.responses ++ [.word (respAbsent s.drawn)] }
  /-- R170. -/
  | tlbInsert {s : State} {v : Vpn} {f : Pfn} {m r : Bool} (hr : s.tlbReady = true)
      (h : s.cfg.checkUnique = true → s.heldElsewhere s.victim v = false) :
      CommandEffect (.tlbInsert v f m r) s { s with
        notify := s.notify ++ writeBackEvents (s.entry s.victim)
        tlb := s.tlb.set s.victim (TlbEntry.filled v f m r)
        hand := s.handAfter s.victim
        responses := s.responses ++ [.respNone] }
  /-- R144. -/
  | tlbClearAll {s : State} (hr : s.tlbReady = true) :
      CommandEffect .tlbClearAll s { s with
        tlb := s.tlb.map TlbEntry.invalidated, responses := s.responses ++ [.respNone] }
  /-- R145. -/
  | tlbClearAllRef {s : State} (hr : s.tlbReady = true) :
      CommandEffect .tlbClearAllRef s { s with
        tlb := s.tlb.map TlbEntry.unreferenced, responses := s.responses ++ [.respNone] }
  /-- R146. -/
  | tlbClearEntry {s : State} {v : Vpn} (hr : s.tlbReady = true) :
      CommandEffect (.tlbClearEntry v) s { s with
        tlb := s.tlb.map fun e => if e.namesVpn v then e.invalidated else e
        responses := s.responses ++ [.respNone] }
  /-- R202. -/
  | tlbWriteBack {s : State} (hr : s.tlbReady = true) :
      CommandEffect .tlbWriteBack s { s with
        notify := s.notify ++ s.tlb.flatMap writeBackEvents
        responses := s.responses ++ [.respNone] }
  /-- R150. -/
  | tlbReadEntry {s : State} {k : TlbIndex} (hr : s.tlbReady = true) (h : k.toNat < s.cfg.n) :
      CommandEffect (.tlbReadEntry k) s { s with
        responses := s.responses ++ [.word (respEntry (s.entry k.toNat))] }
  /-- R151. -/
  | tlbReadHand {s : State} (hr : s.tlbReady = true) :
      CommandEffect .tlbReadHand s { s with responses := s.responses ++ [.word (respHand s.hand)] }

theorem ptCommand_effect {i : Instr} {s t : State} {body : Result} (h : ptCommand s body = .next t)
    (hb : s.ptReady = true → body = .next t → CommandEffect i s t) : CommandEffect i s t := by
  rcases (ptCommand_eq_next.1 h).2 with ⟨hr, hn⟩ | ⟨-, rfl⟩
  · exact hb hr hn
  · exact .faults _ (by decide)

theorem tlbCommand_effect {i : Instr} {s t : State} {body : Result} (h : tlbCommand s body = .next t)
    (hb : s.tlbReady = true → body = .next t → CommandEffect i s t) : CommandEffect i s t := by
  rcases (tlbCommand_eq_next.1 h).2 with ⟨hr, hn⟩ | ⟨-, rfl⟩
  · exact hb hr hn
  · exact .faults _ (by decide)

theorem execPtInit_effect {s t : State} (h : execPtInit s = .next t) : CommandEffect .ptInit s t := by
  obtain ⟨-, h⟩ := unlessHalted_eq_next.1 h
  split at h
  · rw [raise_eq_next] at h; subst h; exact .faults _ (by decide)
  · next hr => rw [complete_eq_next] at h; subst h; exact .ptInit (by simpa using hr)

theorem execPtGetFrame_effect {v : Vpn} {s t : State} (h : execPtGetFrame v s = .next t) :
    CommandEffect (.ptGetFrame v) s t := by
  refine ptCommand_effect h fun hr hn => ?_
  split at hn
  · next f hf => rw [complete_eq_next] at hn; subst hn; exact .ptGetFrameFound f hr hf
  · next hf => rw [completeAbsent_eq_next] at hn; subst hn; exact .ptGetFrameAbsent hr hf

theorem execPtUpdate_effect {v : Vpn} {f : Pfn} {s t : State} (h : execPtUpdate v f s = .next t) :
    CommandEffect (.ptUpdate v f) s t := by
  refine ptCommand_effect h fun hr hn => ?_
  split at hn
  · next ha => rw [complete_eq_next] at hn; subst hn; exact .ptUpdateAllocated hr ha
  · next ha =>
    split at hn
    · rw [raise_eq_next] at hn; subst hn; exact .faults _ (by decide)
    · next hp =>
      rw [complete_eq_next] at hn; subst hn
      exact .ptUpdateAllocates hr (by simpa using ha) (by simpa using hp)

theorem execPtClearEntry_effect {v : Vpn} {s t : State} (h : execPtClearEntry v s = .next t) :
    CommandEffect (.ptClearEntry v) s t := by
  refine ptCommand_effect h fun hr hn => ?_
  rw [complete_eq_next] at hn; subst hn
  by_cases ha : s.allocated v = true
  · rw [if_pos ha]; exact .ptClearEntry hr ha
  · rw [if_neg ha]; exact .ptClearEntryNothing hr (by simpa using ha)

theorem execPtReadPte_effect {v : Vpn} {s t : State} (h : execPtReadPte v s = .next t) :
    CommandEffect (.ptReadPte v) s t := by
  refine ptCommand_effect h fun hr hn => ?_
  rw [complete_eq_next] at hn; subst hn; exact .ptReadPte hr

theorem execTlbInit_effect {s t : State} (h : execTlbInit s = .next t) :
    CommandEffect .tlbInit s t := by
  obtain ⟨-, h⟩ := unlessHalted_eq_next.1 h
  split at h
  · rw [raise_eq_next] at h; subst h; exact .faults _ (by decide)
  · next hr => rw [complete_eq_next] at h; subst h; exact .tlbInit (by simpa using hr)

theorem execTlbLookup_effect {v : Vpn} {op : Access} {s t : State}
    (h : execTlbLookup v op s = .next t) : CommandEffect (.tlbLookup v op) s t := by
  refine tlbCommand_effect h fun hr hn => ?_
  split at hn
  · next k hk => rw [complete_eq_next] at hn; subst hn; exact .tlbLookupHit k hr hk
  · next hk => rw [completeAbsent_eq_next] at hn; subst hn; exact .tlbLookupMiss hr hk

theorem execTlbInsert_effect {v : Vpn} {f : Pfn} {m r : Bool} {s t : State}
    (h : execTlbInsert v f m r s = .next t) : CommandEffect (.tlbInsert v f m r) s t := by
  refine tlbCommand_effect h fun hr hn => ?_
  split at hn
  · rw [raise_eq_next] at hn; subst hn; exact .faults _ (by decide)
  · next hu =>
    rw [complete_eq_next] at hn; subst hn
    exact .tlbInsert hr fun hc => by simpa [hc] using hu

theorem execTlbClearAll_effect {s t : State} (h : execTlbClearAll s = .next t) :
    CommandEffect .tlbClearAll s t := by
  refine tlbCommand_effect h fun hr hn => ?_
  rw [complete_eq_next] at hn; subst hn; exact .tlbClearAll hr

theorem execTlbClearAllRef_effect {s t : State} (h : execTlbClearAllRef s = .next t) :
    CommandEffect .tlbClearAllRef s t := by
  refine tlbCommand_effect h fun hr hn => ?_
  rw [complete_eq_next] at hn; subst hn; exact .tlbClearAllRef hr

theorem execTlbClearEntry_effect {v : Vpn} {s t : State} (h : execTlbClearEntry v s = .next t) :
    CommandEffect (.tlbClearEntry v) s t := by
  refine tlbCommand_effect h fun hr hn => ?_
  rw [complete_eq_next] at hn; subst hn; exact .tlbClearEntry hr

theorem execTlbWriteBack_effect {s t : State} (h : execTlbWriteBack s = .next t) :
    CommandEffect .tlbWriteBack s t := by
  refine tlbCommand_effect h fun hr hn => ?_
  rw [complete_eq_next] at hn; subst hn; exact .tlbWriteBack hr

theorem execTlbReadEntry_effect {k : TlbIndex} {s t : State} (h : execTlbReadEntry k s = .next t) :
    CommandEffect (.tlbReadEntry k) s t := by
  refine tlbCommand_effect h fun hr hn => ?_
  split at hn
  · rw [raise_eq_next] at hn; subst hn; exact .faults _ (by decide)
  · next hk => rw [complete_eq_next] at hn; subst hn; exact .tlbReadEntry hr (by omega)

theorem execTlbReadHand_effect {s t : State} (h : execTlbReadHand s = .next t) :
    CommandEffect .tlbReadHand s t := by
  refine tlbCommand_effect h fun hr hn => ?_
  rw [complete_eq_next] at hn; subst hn; exact .tlbReadHand hr

/-- Everything a command can do, when it answers a next state. -/
theorem exec_effect {i : Instr} {s t : State} (h : exec i s = .next t) : CommandEffect i s t := by
  cases i with
  | ptInit => exact execPtInit_effect h
  | ptGetFrame v => exact execPtGetFrame_effect h
  | ptUpdate v f => exact execPtUpdate_effect h
  | ptClearEntry v => exact execPtClearEntry_effect h
  | tlbInit => exact execTlbInit_effect h
  | tlbLookup v op => exact execTlbLookup_effect h
  | tlbInsert v f m r => exact execTlbInsert_effect h
  | tlbClearAll => exact execTlbClearAll_effect h
  | tlbClearAllRef => exact execTlbClearAllRef_effect h
  | tlbClearEntry v => exact execTlbClearEntry_effect h
  | tlbWriteBack => exact execTlbWriteBack_effect h
  | ptReadPte v => exact execPtReadPte_effect h
  | tlbReadEntry k => exact execTlbReadEntry_effect h
  | tlbReadHand => exact execTlbReadHand_effect h

end Sys2Proof.Machine
end

