-- ==== Sys2Proof/Laws/Encoding.lean ====
section
/-! SUPPORT. The fields of a command word built from its fields, and what a row's mask and match say of it
bit by bit (R80, R83). -/

namespace Sys2Proof

/-- Every bit of a command word (R80). -/
theorem getLsbD_commandWord (op : BitVec 4) (st m r : BitVec 1) (v : Vpn) (h : BitVec 20) (k : Nat) :
    (commandWord op st m r v h).getLsbD k =
      if k < 4 then op.getLsbD k
      else if k = 4 then st.getLsbD 0
      else if k = 5 then m.getLsbD 0
      else if k = 6 then r.getLsbD 0
      else if k < 8 then false
      else if k < 28 then v.getLsbD (k - 8)
      else if k < 32 then false
      else if k < 52 then h.getLsbD (k - 32)
      else false := by
  by_cases hk : k < 64
  · simp only [commandWord, BitVec.getLsbD_append]
    interval_cases k <;> simp
  · rw [BitVec.getLsbD_of_ge _ _ (by omega)]
    split_ifs <;> first | omega | rfl

@[simp] theorem fieldOp_commandWord (op : BitVec 4) (st m r : BitVec 1) (v : Vpn) (h : BitVec 20) :
    fieldOp (commandWord op st m r v h) = op := by
  apply BitVec.eq_of_getLsbD_eq
  intro k hk
  simp [fieldOp, getLsbD_commandWord, hk]

@[simp] theorem fieldVpn_commandWord (op : BitVec 4) (st m r : BitVec 1) (v : Vpn) (h : BitVec 20) :
    fieldVpn (commandWord op st m r v h) = v := by
  apply BitVec.eq_of_getLsbD_eq
  intro k hk
  simp only [fieldVpn, BitVec.getLsbD_extractLsb', getLsbD_commandWord]
  split_ifs <;> first | omega | simp [hk]

@[simp] theorem fieldPfn_commandWord (op : BitVec 4) (st m r : BitVec 1) (v : Vpn) (h : BitVec 20) :
    fieldPfn (commandWord op st m r v h) = h := by
  apply BitVec.eq_of_getLsbD_eq
  intro k hk
  simp only [fieldPfn, BitVec.getLsbD_extractLsb', getLsbD_commandWord]
  split_ifs <;> first | omega | simp [hk]

@[simp] theorem fieldIdx_commandWord (op : BitVec 4) (st m r : BitVec 1) (v : Vpn) (h : BitVec 20) :
    fieldIdx (commandWord op st m r v h) = h :=
  fieldPfn_commandWord op st m r v h

@[simp] theorem fieldSt_commandWord (op : BitVec 4) (a : Access) (m r : BitVec 1) (v : Vpn)
    (h : BitVec 20) : fieldSt (commandWord op (accessBit a) m r v h) = a := by
  rw [fieldSt, getLsbD_commandWord]
  cases a <;> simp [accessBit]

@[simp] theorem fieldM_commandWord (op : BitVec 4) (st r : BitVec 1) (m : Bool) (v : Vpn)
    (h : BitVec 20) : fieldM (commandWord op st (BitVec.ofBool m) r v h) = m := by
  rw [fieldM, getLsbD_commandWord]
  simp

@[simp] theorem fieldR_commandWord (op : BitVec 4) (st m : BitVec 1) (r : Bool) (v : Vpn)
    (h : BitVec 20) : fieldR (commandWord op st m (BitVec.ofBool r) v h) = r := by
  rw [fieldR, getLsbD_commandWord]
  simp

/-- The opcode field of an encoded command (R82). -/
@[simp] theorem fieldOp_encode (i : Instr) : fieldOp (encode i) = opcodeOf i := by
  cases i <;> exact fieldOp_commandWord ..

/-- A row accepts a word when every bit under its mask is its match's (R83). -/
theorem OpcodeRow.accepts_of_bits (row : OpcodeRow) (w : Word64)
    (h : ∀ k, k < 64 → (w.getLsbD k && row.mask.getLsbD k) = row.pattern.getLsbD k) :
    row.accepts w = true := by
  simp only [OpcodeRow.accepts, beq_iff_eq]
  apply BitVec.eq_of_getLsbD_eq
  intro k hk
  simpa using h k hk

/-- No row of the table accepts a word of another row's opcode: every mask covers the OP field, and row
`n` matches `OP = n` (R82, R83). -/
theorem fieldOp_of_accepts {row : OpcodeRow} {w : Word64} {n : Nat} (hr : opcodeTable[n]? = some row)
    (h : row.accepts w = true) : (fieldOp w).toNat = n := by
  have hn : n < 14 := by
    have := (List.getElem?_eq_some_iff.mp hr).1
    simpa [opcodeTable] using this
  have hop : fieldOp w = fieldOp row.pattern := by
    have hm : fieldOp row.mask = 0xF#4 := by
      interval_cases n <;> (cases hr; rfl)
    have hw : w &&& row.mask = row.pattern := by simpa [OpcodeRow.accepts] using h
    rw [← hw]
    simp only [fieldOp] at hm ⊢
    rw [BitVec.extractLsb'_and, hm]
    apply BitVec.eq_of_getLsbD_eq
    intro k hk
    interval_cases k <;> simp
  rw [hop]
  interval_cases n <;> (cases hr; rfl)

end Sys2Proof
end

