-- ==== Sys2Proof/Laws/PerInstr.lean ====
section
/-! SUPPORT. Statements made for each command as syntax, one lemma per constructor of `Instr`. -/

namespace Sys2Proof.Laws

/-- `95_test_vectors.md` V-E-1 for one command with any operands: its word meets `w & mask = match` of its
own row of the opcode table and of no other row. -/
def OwnRowOnly.Statement (i : Instr) : Prop :=
  (∃ row, opcodeTable[(opcodeOf i).toNat]? = some row ∧ row.accepts (encode i) = true) ∧
    ∀ n row, opcodeTable[n]? = some row → row.accepts (encode i) = true → n = (opcodeOf i).toNat

/-- No row but the one of the command's opcode accepts its word. -/
theorem OwnRowOnly.of_accepts (i : Instr) {row : OpcodeRow}
    (hr : opcodeTable[(opcodeOf i).toNat]? = some row) (h : row.accepts (encode i) = true) :
    OwnRowOnly.Statement i :=
  ⟨⟨row, hr, h⟩, fun _ _ hr' h' => by rw [← fieldOp_of_accepts hr' h', fieldOp_encode]⟩

theorem OwnRowOnly.ptInit : OwnRowOnly.Statement .ptInit :=
  OwnRowOnly.of_accepts _ rfl rfl

theorem OwnRowOnly.ptGetFrame (vpn : Vpn) : OwnRowOnly.Statement (.ptGetFrame vpn) :=
  OwnRowOnly.of_accepts _ rfl (OpcodeRow.accepts_of_bits _ _ fun k hk => by
    simp only [encode, getLsbD_commandWord]; interval_cases k <;> simp [opcodeOf])

theorem OwnRowOnly.ptUpdate (vpn : Vpn) (pfn : Pfn) : OwnRowOnly.Statement (.ptUpdate vpn pfn) :=
  OwnRowOnly.of_accepts _ rfl (OpcodeRow.accepts_of_bits _ _ fun k hk => by
    simp only [encode, getLsbD_commandWord]; interval_cases k <;> simp [opcodeOf])

theorem OwnRowOnly.ptClearEntry (vpn : Vpn) : OwnRowOnly.Statement (.ptClearEntry vpn) :=
  OwnRowOnly.of_accepts _ rfl (OpcodeRow.accepts_of_bits _ _ fun k hk => by
    simp only [encode, getLsbD_commandWord]; interval_cases k <;> simp [opcodeOf])

theorem OwnRowOnly.tlbInit : OwnRowOnly.Statement .tlbInit :=
  OwnRowOnly.of_accepts _ rfl rfl

theorem OwnRowOnly.tlbLookup (vpn : Vpn) (op : Access) : OwnRowOnly.Statement (.tlbLookup vpn op) :=
  OwnRowOnly.of_accepts _ rfl (OpcodeRow.accepts_of_bits _ _ fun k hk => by
    simp only [encode, getLsbD_commandWord]; interval_cases k <;> simp [opcodeOf])

theorem OwnRowOnly.tlbInsert (vpn : Vpn) (pfn : Pfn) (m r : Bool) :
    OwnRowOnly.Statement (.tlbInsert vpn pfn m r) :=
  OwnRowOnly.of_accepts _ rfl (OpcodeRow.accepts_of_bits _ _ fun k hk => by
    simp only [encode, getLsbD_commandWord]; interval_cases k <;> simp [opcodeOf])

theorem OwnRowOnly.tlbClearAll : OwnRowOnly.Statement .tlbClearAll :=
  OwnRowOnly.of_accepts _ rfl rfl

theorem OwnRowOnly.tlbClearAllRef : OwnRowOnly.Statement .tlbClearAllRef :=
  OwnRowOnly.of_accepts _ rfl rfl

theorem OwnRowOnly.tlbClearEntry (vpn : Vpn) : OwnRowOnly.Statement (.tlbClearEntry vpn) :=
  OwnRowOnly.of_accepts _ rfl (OpcodeRow.accepts_of_bits _ _ fun k hk => by
    simp only [encode, getLsbD_commandWord]; interval_cases k <;> simp [opcodeOf])

theorem OwnRowOnly.tlbWriteBack : OwnRowOnly.Statement .tlbWriteBack :=
  OwnRowOnly.of_accepts _ rfl rfl

theorem OwnRowOnly.ptReadPte (vpn : Vpn) : OwnRowOnly.Statement (.ptReadPte vpn) :=
  OwnRowOnly.of_accepts _ rfl (OpcodeRow.accepts_of_bits _ _ fun k hk => by
    simp only [encode, getLsbD_commandWord]; interval_cases k <;> simp [opcodeOf])

theorem OwnRowOnly.tlbReadEntry (idx : TlbIndex) : OwnRowOnly.Statement (.tlbReadEntry idx) :=
  OwnRowOnly.of_accepts _ rfl (OpcodeRow.accepts_of_bits _ _ fun k hk => by
    simp only [encode, getLsbD_commandWord]; interval_cases k <;> simp [opcodeOf])

theorem OwnRowOnly.tlbReadHand : OwnRowOnly.Statement .tlbReadHand :=
  OwnRowOnly.of_accepts _ rfl rfl

end Sys2Proof.Laws
end

