-- ==== Sys2Proof/Tests/Slice0.lean ====
section
/-! SUPPORT. The model's own tests. The expected words, responses, events and entries are those of
`spec/95_test_vectors.md`, whose vector each test names, or are worked out by hand from the rule it names.
The last part gives, for each statement of `Obligations.lean` that has hypotheses, a theorem
`witness_<statement>` with concrete values that meet them together. -/

namespace Sys2Proof.Tests

open Sys2Proof Sys2Proof.Machine

/-! ### States -/

/-- Both sub-blocks initialised, nothing mapped, every entry invalid (R252), `N = 2`. -/
def ready : State := { State.reset with ptReady := true, tlbReady := true }

/-- `ready` with the TLB and hand given. -/
def tlbState (tlb : List TlbEntry) (hand : BitVec 20) : State := { ready with tlb := tlb, hand := hand }

/-- V-L1-3 after row 2: `0x12345` mapped to `0xABCDE`. -/
def mapped : State := { ready with l1a := [0x048], pte := [(0x12345, 0x800ABCDE)], l2Used := 1 }

/-- V-L1-8 after row 4: A referenced in entry 0, B not in entry 1, the hand at 0. -/
def twoCached : State := tlbState [⟨0x8000000A, 0x8000000A⟩, ⟨0x8000000B, 0x00000014⟩] 0

/-- V-L1-7 after row 3: A and B referenced, B modified; with the hand moved to 1. -/
def bothReferenced : State := tlbState [⟨0x8000000A, 0x8000000A⟩, ⟨0x8000000B, 0xC0000014⟩] 1

/-- `N = 1`, a pool of one table, no uniqueness check. -/
def smallConfig : Config where
  n := 1
  l2Pool := 1
  checkUnique := false
  tlbInitContents := [⟨0xFFFFFFFF, 0xFFFFFFFF⟩]

/-- An instance of `smallConfig` that has used up its pool; its one entry is valid and referenced. -/
def small : State :=
  { State.resetOf smallConfig with
    ptReady := true, tlbReady := true, l1a := [0], l2Used := 1, tlb := [⟨0x80000050, 0xC0000060⟩] }

/-- `twoCached` on an instance that does not check uniqueness. -/
def unchecked : State := { twoCached with cfg := { Config.standard with checkUnique := false } }

/-- A halted engine. -/
def stopped : State := { ready with fault := .indexRange }

/-- What a next state shows under `f`. -/
def seen {α : Type} (f : State → α) : Result → Option α
  | .next t => some (f t)
  | _ => none

/-- One step that takes the command word `w`. -/
def stepWith (w : Nat) (s : State) : Result := step (s.withFetchWord 64 w)

/-! ### Well-formedness (R9, R88): a term that each check refuses -/

theorem test_instance_accepted : instanceWellFormed 2 1024 [⟨0, 0⟩, ⟨0, 0⟩] = true := by decide
theorem test_instance_without_entries_refused : instanceWellFormed 0 1024 [] = false := by decide
theorem test_instance_beyond_index_range_refused (contents : List TlbEntry) :
    instanceWellFormed (2 ^ 20 + 1) 1024 contents = false := by
  simp [instanceWellFormed]
theorem test_instance_without_pool_refused : instanceWellFormed 1 0 [⟨0, 0⟩] = false := by decide
theorem test_instance_with_large_pool_refused :
    instanceWellFormed 1 1025 [⟨0, 0⟩] = false := by decide
theorem test_instance_with_missing_contents_refused :
    instanceWellFormed 2 1024 [⟨0, 0⟩] = false := by decide
theorem test_vpn_out_of_range_refused :
    (SourceLine.ptGetFrame 0x100000).wellFormed = false ∧
      (SourceLine.ptGetFrame 0xFFFFF).wellFormed = true := by decide
theorem test_pfn_out_of_range_refused :
    (SourceLine.ptUpdate 0 0x100000).wellFormed = false ∧
      (SourceLine.remap 0 0x100000).wellFormed = false := by decide
theorem test_idx_out_of_range_refused :
    (SourceLine.tlbReadEntry 0x100000).wellFormed = false := by decide
theorem test_modify_operand_out_of_range_refused :
    (SourceLine.tlbInsert 0 0 2 0).wellFormed = false := by decide
theorem test_reference_operand_out_of_range_refused :
    (SourceLine.tlbRefill 0 0 0 2).wellFormed = false := by decide

/-! ### Decoding. A word for every opcode (V-E-1), and the illegal words of V-E-2 -/

theorem test_decode_ptInit : decode 0x0000000000000000 = .ok .ptInit := rfl
theorem test_decode_ptGetFrame : decode 0x0000000000040101 = .ok (.ptGetFrame 0x00401) := rfl
theorem test_decode_ptUpdate : decode 0x000ABCDE01234502 = .ok (.ptUpdate 0x12345 0xABCDE) := rfl
theorem test_decode_ptClearEntry : decode 0x0000000001234503 = .ok (.ptClearEntry 0x12345) := rfl
theorem test_decode_tlbInit : decode 0x0000000000000004 = .ok .tlbInit := rfl
theorem test_decode_tlbLookup_load : decode 0x0000000000000A05 = .ok (.tlbLookup 0x0000A .load) := rfl
theorem test_decode_tlbLookup_store : decode 0x0000000000000B15 = .ok (.tlbLookup 0x0000B .store) := rfl
theorem test_decode_tlbInsert_modified :
    decode 0x0000001E00000326 = .ok (.tlbInsert 3 30 true false) := rfl
theorem test_decode_tlbInsert_referenced :
    decode 0x0000000A00000A46 = .ok (.tlbInsert 0xA 10 false true) := rfl
theorem test_decode_tlbClearAll : decode 0x0000000000000007 = .ok .tlbClearAll := rfl
theorem test_decode_tlbClearAllRef : decode 0x0000000000000008 = .ok .tlbClearAllRef := rfl
theorem test_decode_tlbClearEntry : decode 0x0000000000000A09 = .ok (.tlbClearEntry 0x0000A) := rfl
theorem test_decode_tlbWriteBack : decode 0x000000000000000A = .ok .tlbWriteBack := rfl
theorem test_decode_ptReadPte : decode 0x000000000123450B = .ok (.ptReadPte 0x12345) := rfl
theorem test_decode_tlbReadEntry : decode 0x000000010000000C = .ok (.tlbReadEntry 1) := rfl
theorem test_decode_tlbReadHand : decode 0x000000000000000D = .ok .tlbReadHand := rfl

theorem test_decode_reserved_opcodes :
    decode 0x000000000000000E = .error .reservedOpcode ∧
      decode 0x000000000000000F = .error .reservedOpcode := ⟨rfl, rfl⟩

/-- The other fourteen words of V-E-2: a reserved bit, or a field the opcode does not use. -/
theorem test_decode_nonzero_unused_fields :
    ∀ w ∈ ([0x0000000000000080, 0x0000000000000100, 0x0000000000000010, 0x0000000000000A25,
      0x0000000000000A45, 0x0000000100000A05, 0x0000000A00000A16, 0x0000000100000001,
      0x0000000010000001, 0x0010000000000002, 0x8000000000000006, 0x000000000000010C,
      0x000000010000000D, 0x0000000000000097] : List Nat), decodeTableWord 64 w = none := by decide

/-! ### The assembler (R88, R89) -/

/-- V-E-1, with a comment. -/
theorem test_assemble_tlbInsert :
    assembleText "  TLB_INSERT 3, 30, 1, 0 ; fill".toList = .ok [0x0000001E00000326] := rfl

theorem test_assemble_hexadecimal :
    assembleText "PT_UPDATE 0x12345, 0xABCDE".toList = .ok [0x000ABCDE01234502] := rfl

/-- R89: the expansion of `UNMAP`, in its order. -/
theorem test_assemble_unmap :
    assembleText "UNMAP 0x12345".toList = .ok [0x0000000001234503, 0x0000000001234509] := rfl

theorem test_assemble_out_of_range :
    assembleText "PT_GET_FRAME 0x100000".toList = .error .operandOutOfRange := rfl

theorem test_assemble_program :
    assembleProgram ["; start".toList, "TLB_INIT".toList, "".toList, "TLB_LOOKUP 0xA, LOAD".toList] =
      .ok [0x0000000000000004, 0x0000000000000A05] := rfl

/-! ### One step of each command -/

/-- V-L1-1 row 1. -/
theorem test_ptInit_completes :
    seen (fun t => (t.ptReady, t.l1a, t.l2Used, t.responses, t.fault)) (stepWith 0x0 State.reset) =
      some (true, [], 0, [.respNone], .none) := by decide

/-- V-PT-2 row 3: the mapping survives and the fault is 3. -/
theorem test_ptInit_twice_faults :
    seen (fun t => (t.l1a, t.pteAt 0x12345, t.fault.bits, t.responses)) (stepWith 0x0 mapped) =
      some ([0x048], 0x800ABCDE, 3, []) := by decide

/-- V-L1-1 row 3. -/
theorem test_ptGetFrame_present :
    seen (fun t => (t.responses, t.pageFault)) (stepWith 0x0000000001234501 mapped) =
      some ([.word 0x00000000000ABCDE], some false) := by decide

/-- V-L1-2 row 2: the flag is set, and a VPN in no allocated slot allocates nothing. -/
theorem test_ptGetFrame_absent :
    seen (fun t => (t.pageFault, t.l1a, t.l2Used)) (stepWith 0x0000000000040101 mapped) =
      some (some true, [0x048], 1) := by decide

/-- V-PT-3 row 2: the last PTE of the last table. -/
theorem test_ptUpdate_allocates :
    seen (fun t => (t.l1a, t.pte, t.l2Used)) (stepWith 0x000FFFFF0FFFFF02 ready) =
      some ([0x3FF], [(0xFFFFF, 0x800FFFFF)], 1) := by decide

/-- R113: the pool of one table is used up. -/
theorem test_ptUpdate_pool_used_up :
    seen (fun t => (t.fault.bits, t.l1a, t.pte, t.l2Used)) (stepWith 0x000FFFFF0FFFFF02 small) =
      some (6, [0], [], 1) := by decide

/-- V-L1-3 rows 3 and 5: the cleared PTE keeps its frame. -/
theorem test_ptClearEntry_keeps_frame :
    seen (fun t => t.pte) (stepWith 0x0000000001234503 mapped) = some [(0x12345, 0x000ABCDE)] := by decide

/-- V-PT-4 row 2. -/
theorem test_ptClearEntry_unallocated :
    seen (fun t => (t.pte, t.l1a, t.responses)) (stepWith 0x0000000001234503 ready) =
      some ([], [], [.respNone]) := by decide

/-- V-L1-3 row 8. -/
theorem test_ptReadPte_allocated :
    seen (fun t => t.responses) (stepWith 0x000000000123450B mapped) =
      some [.word 0x00000000800ABCDE] := by decide

/-- V-PT-4 row 3. -/
theorem test_ptReadPte_unallocated :
    seen (fun t => t.responses) (stepWith 0x000000000123450B ready) =
      some [.word 0x0000000200000000] := by decide

/-- R141: only the valid bit of the initial contents is cleared. -/
theorem test_tlbInit_clears_valid :
    seen (fun t => (t.tlb, t.hand, t.tlbReady))
        (stepWith 0x4 { State.resetOf smallConfig with hand := 7 }) =
      some ([⟨0x7FFFFFFF, 0xFFFFFFFF⟩], 0, true) := by decide

/-- R141, R221: the second TLB_INIT. -/
theorem test_tlbInit_twice_faults :
    seen (fun t => (t.fault.bits, t.tlb)) (stepWith 0x4 small) =
      some (3, [⟨0x80000050, 0xC0000060⟩]) := by decide

/-- V-L1-8 row 4 and R142: a load sets R only, a store R and M. -/
theorem test_tlbLookup_store_hit :
    seen (fun t => (t.responses, t.tlbMiss, t.tlb)) (stepWith 0x0000000000000B15 twoCached) =
      some ([.word 20], some false,
        [⟨0x8000000A, 0x8000000A⟩, ⟨0x8000000B, 0xC0000014⟩]) := by decide

/-- V-L1-4 row 7. -/
theorem test_tlbLookup_miss :
    seen (fun t => (t.tlbMiss, t.tlb)) (stepWith 0x0000000000004305 twoCached) =
      some (some true, twoCached.tlb) := by decide

/-- V-L1-8 row 5: B is evicted, and its two events are sent with bits 0. -/
theorem test_tlbInsert_evicts_unreferenced :
    seen (fun t => (t.tlb, t.hand, t.notify.map Event.word)) (stepWith 0x0000001E00000C06 twoCached) =
      some ([⟨0x8000000A, 0x8000000A⟩, ⟨0x8000000C, 0x0000001E⟩], 0,
        [0x00000014, 0x10000014]) := by decide

/-- V-L1-6b row 3: the fallback victim of `N = 1`. -/
theorem test_tlbInsert_falls_back_to_hand :
    seen (fun t => (t.tlb, t.hand, t.notify.map Event.word)) (stepWith 0x0000006100005106 small) =
      some ([⟨0x80000051, 0x00000061⟩], 0, [0x01000060, 0x11000060]) := by decide

/-- V-L1-7 rows 7 and 10. -/
theorem test_tlbClearAll_keeps_fields :
    seen (fun t => t.tlb) (stepWith 0x7 bothReferenced) =
      some [⟨0x0000000A, 0x8000000A⟩, ⟨0x0000000B, 0xC0000014⟩] := by decide

/-- V-L1-7 rows 4 to 6. -/
theorem test_tlbClearAllRef_keeps_modified :
    seen (fun t => t.tlb) (stepWith 0x8 bothReferenced) =
      some [⟨0x8000000A, 0x0000000A⟩, ⟨0x8000000B, 0x40000014⟩] := by decide

/-- R146: both entries name the VPN, one of them invalid already. -/
theorem test_tlbClearEntry_clears_both :
    seen (fun t => t.tlb)
        (stepWith 0x0000000000000A09 (tlbState [⟨0x0000000A, 1⟩, ⟨0x8000000A, 2⟩] 0)) =
      some [⟨0x0000000A, 1⟩, ⟨0x0000000A, 2⟩] := by decide

/-- V-L1-6a row 3, with an invalid entry beside it. -/
theorem test_tlbWriteBack_valid_only :
    seen (fun t => (t.notify.map Event.word, t.tlb))
        (stepWith 0xA (tlbState [⟨0x80000050, 0xC0000060⟩, ⟨0x00000051, 0xC0000061⟩] 1)) =
      some ([0x01000060, 0x11000060], [⟨0x80000050, 0xC0000060⟩, ⟨0x00000051, 0xC0000061⟩]) := by
  decide

/-- V-L1-4 row 8. -/
theorem test_tlbReadEntry_both_words :
    seen (fun t => t.responses)
        (stepWith 0x000000000000000C (tlbState [⟨0x80000042, 0xC0000099⟩, ⟨0, 0⟩] 1)) =
      some [.word 0xC000009980000042] := by decide

/-- R150: the first index that is not below `N = 2`. -/
theorem test_tlbReadEntry_index_range :
    seen (fun t => (t.fault.bits, t.responses)) (stepWith 0x000000020000000C ready) =
      some (4, []) := by decide

/-- R151. -/
theorem test_tlbReadHand :
    seen (fun t => t.responses) (stepWith 0xD bothReferenced) = some [.word 1] := by decide

/-- V-PT-1 row 1. -/
theorem test_not_initialized :
    seen (fun t => (t.fault.bits, t.ptReady)) (stepWith 0x0000000000000101 State.reset) =
      some (2, false) := by decide

/-- V-PT-1 row 2. -/
theorem test_halted_takes_no_command : stepWith 0x0 stopped = .fault .halted := rfl

/-! ### Witnesses: the hypotheses of each statement can be met -/

/-- A word that the decoder refuses is no command. -/
theorem no_command {w : Word64} {x : IllegalWord} (h : decode w = .error x) (i : Instr) :
    decode w ≠ .ok i := by
  rw [h]; intro e; cases e

theorem victim_of {s : State} (h : TlbHasCapacity s) {v : Nat} (hv : s.victim = v) : IsVictim s v :=
  hv ▸ State.victim_isVictim h

theorem victim_twoCached : IsVictim twoCached 1 := victim_of (s := twoCached) rfl (by decide)
theorem victim_bothReferenced : IsVictim bothReferenced 1 := victim_of (s := bothReferenced) rfl (by decide)
theorem victim_small : IsVictim small 0 := victim_of (s := small) rfl (by decide)
theorem victim_ready : IsVictim ready 0 := victim_of (s := ready) rfl (by decide)
theorem victim_unchecked : IsVictim unchecked 1 := victim_of (s := unchecked) rfl (by decide)

theorem witness_LegalWordIsEncodingOfItsCommand :
    decode 0x000FFFFF0FFFFF66 = .ok (.tlbInsert 0xFFFFF 0xFFFFF true true) := rfl

theorem witness_IllegalWordsAreTheOnesOutsideTheTable :
    (∃ i, decode 0xD = .ok i) ∧ fieldOp 0xE = 0xE ∧ fieldOp 0xF = 0xF ∧
      { ready with input := [0x80, 0] }.fault = .none ∧ (∀ i, decode 0x80 ≠ .ok i) :=
  ⟨⟨_, rfl⟩, rfl, rfl, rfl, no_command (x := .nonzeroUnusedField) rfl⟩

/-- The ends of each range, and the first operand out of it, in each clause and in each place. -/
theorem witness_AssembledLinesDecodeToTheirCommands :
    (∃ v : Nat, v ≤ 0xFFFFF ∧ AssemblesTo (.unmap v) [.ptClearEntry 0xFFFFF, .tlbClearEntry 0xFFFFF]) ∧
      (∃ v f : Nat, v ≤ 0xFFFFF ∧ f ≤ 0xFFFFF ∧
        AssemblesTo (.remap v f) [.ptUpdate 0 0xFFFFF, .tlbClearEntry 0]) ∧
      (∃ v f m r : Nat, v ≤ 0xFFFFF ∧ f ≤ 0xFFFFF ∧ m ≤ 1 ∧ r ≤ 1 ∧
        AssemblesTo (.tlbRefill v f m r) [.tlbClearEntry 5, .tlbInsert 5 6 true false]) ∧
      (∃ v : Nat, 0xFFFFF < v ∧ OutOfRange (.tlbReadEntry v)) ∧
      (∃ f : Nat, 0xFFFFF < f ∧ OutOfRange (.ptUpdate 0 f)) ∧
      (∃ m : Nat, 1 < m ∧ OutOfRange (.tlbInsert 0 0 m 0)) ∧
      ∃ r : Nat, 1 < r ∧ OutOfRange (.tlbRefill 0 0 0 r) :=
  ⟨⟨0xFFFFF, by decide, _, rfl, rfl⟩, ⟨0, 0xFFFFF, by decide, by decide, _, rfl, rfl⟩,
    ⟨5, 6, 1, 0, by decide, by decide, by decide, by decide, _, rfl, rfl⟩,
    ⟨0x100000, by decide, rfl⟩, ⟨0x100000, by decide, rfl⟩, ⟨2, by decide, rfl⟩, 2, by decide, rfl⟩

theorem witness_StepRunsTheDecodedCommand :
    { ready with input := [0xD, 0x4] }.input = (0xD : Word64) :: [0x4] ∧
      decode 0xD = .ok .tlbReadHand := ⟨rfl, rfl⟩

theorem witness_IdleEngineKeepsAllState : ready.fault = .none ∧ ready.input = [] := by decide

theorem witness_HaltedEngineTakesNoCommand :
    stopped.fault ≠ .none ∧ ∃ t, step ready = .next t := ⟨by decide, _, rfl⟩

theorem witness_FaultingCommandChangesOnlyFault :
    (∃ t, exec .ptInit ready = .next t ∧ t.fault ≠ .none) ∧
      ∃ t, step { ready with input := [0xE] } = .next t ∧ t.fault ≠ .none :=
  ⟨⟨_, rfl, by decide⟩, _, rfl, by decide⟩

theorem witness_EveryCommandCompletesOrFaults : ready.fault = .none := rfl

/-- Every cause of the statement occurs; `N - 1` is no INDEX_RANGE. -/
theorem witness_EachFaultHasItsCause :
    TlbHasCapacity ready ∧ ready.fault = .none ∧
      (∃ t, exec (.tlbReadEntry 1) ready = .next t ∧ t.fault = .none) ∧
      (∃ t, exec (.tlbReadEntry 2) ready = .next t ∧ t.fault = .indexRange) ∧
      (∃ t, exec (.ptReadPte 0) State.reset = .next t ∧ t.fault = .notInitialized) ∧
      (∃ t, exec .tlbReadHand State.reset = .next t ∧ t.fault = .notInitialized) ∧
      (∃ t, exec .ptInit ready = .next t ∧ t.fault = .doubleInit) ∧
      (∃ t, exec .tlbInit ready = .next t ∧ t.fault = .doubleInit) ∧
      (∃ t, exec (.tlbInsert 0xA 1 false false) twoCached = .next t ∧ t.fault = .duplicateVpn) ∧
      (∃ t, exec (.ptUpdate 0xFFFFF 0) small = .next t ∧ t.fault = .resourceExhausted) ∧
      ∃ t, step { ready with input := [0xE] } = .next t ∧ t.fault = .illegalCommand :=
  ⟨rfl, rfl, ⟨_, rfl, rfl⟩, ⟨_, rfl, rfl⟩, ⟨_, rfl, rfl⟩, ⟨_, rfl, rfl⟩, ⟨_, rfl, rfl⟩, ⟨_, rfl, rfl⟩,
    ⟨_, rfl, rfl⟩, ⟨_, rfl, rfl⟩, _, rfl, rfl⟩

theorem witness_FaultPriorityIsHaltedIllegalInitOwn :
    { stopped with input := [0xE] }.fault ≠ .none ∧
      ({ ready with input := [0xE] }.fault = .none ∧ ∀ i, decode 0xE ≠ .ok i) ∧
      (decode 0x4 = .ok .tlbInit ∧ initFault ready .tlbInit = some .doubleInit) ∧
      (∃ t, exec (.tlbReadEntry 2) ready = .next t ∧ initFault ready (.tlbReadEntry 2) = none ∧
        t.fault ≠ .none) :=
  ⟨by decide, ⟨rfl, no_command (x := .reservedOpcode) rfl⟩, ⟨rfl, rfl⟩, _, rfl, rfl, by decide⟩

/-- A power-on state whose unspecified parts are not those of `State.reset`. -/
def otherReset : State :=
  { State.reset with
    l1a := [3], pte := [(5, 7)], l2Used := 9, hand := 0xFFFFF
    tlb := [⟨0xFFFFFFFF, 1⟩, ⟨0x80000000, 2⟩] }

theorem isReset_reset (cfg : Config) : IsReset cfg (State.resetOf cfg) :=
  ⟨rfl, rfl, rfl, rfl, rfl, rfl, rfl, List.length_replicate⟩

theorem isReset_otherReset : IsReset Config.standard otherReset :=
  ⟨rfl, rfl, rfl, rfl, rfl, rfl, rfl, rfl⟩

theorem indistinguishable_resets : Indistinguishable State.reset otherReset :=
  ⟨rfl, rfl, rfl, rfl, rfl, rfl, rfl, rfl, rfl, rfl, by decide, by decide, fun h => (by cases h),
    by decide, by decide⟩

theorem witness_UnspecifiedResetContentsAreUnobservable :
    (IsReset Config.standard State.reset ∧ IsReset Config.standard otherReset ∧
        otherReset.input = State.reset.input ∧ otherReset.responses = State.reset.responses ∧
        otherReset.draws = State.reset.draws) ∧
      (Indistinguishable State.reset otherReset ∧ ∃ t, step State.reset = .next t) ∧
      ∃ s t f, Indistinguishable s t ∧ step s = .fault f :=
  ⟨⟨isReset_reset _, isReset_otherReset, rfl, rfl, rfl⟩, ⟨indistinguishable_resets, _, rfl⟩,
    stopped, stopped, .halted, by constructor <;> intros <;> rfl, rfl⟩

theorem witness_BothInitialisationsGiveReadyState : IsReset smallConfig (State.resetOf smallConfig) :=
  isReset_reset _

theorem witness_PtInitMarksEverySlotAbsent :
    otherReset.fault = .none ∧ otherReset.ptReady = false := by decide

theorem witness_PtGetFrameAnswersAPresentMapping :
    mapped.fault = .none ∧ mapped.ptReady = true ∧ mapped.allocated 0x12345 = true ∧
      (mapped.pteAt 0x12345).getLsbD 31 = true := by decide

/-- Both causes of a page fault: no table, and a PTE that is not present. -/
theorem witness_PtGetFrameReportsAPageFault :
    mapped.fault = .none ∧ mapped.ptReady = true ∧ mapped.allocated 0xFFFFF = false ∧
      mapped.allocated 0x12346 = true ∧ (mapped.pteAt 0x12346).getLsbD 31 = false := by decide

/-- Both ways to have a table, at the extreme VPNs too. -/
theorem witness_PtUpdateInstallsTheMapping :
    mapped.fault = .none ∧ mapped.ptReady = true ∧ mapped.allocated 0x12345 = true ∧
      mapped.allocated 0xFFFFF = false ∧ mapped.l2Used.toNat ≠ mapped.cfg.l2Pool ∧
      l1 (0x12000 : Vpn) = l1 (0x123FF : Vpn) ∧ l1 (0x123FF : Vpn) ≠ l1 (0x12400 : Vpn) := by decide

theorem witness_PtClearEntryClearsOnlyThePresentBit :
    mapped.fault = .none ∧ mapped.ptReady = true ∧ mapped.allocated 0x12345 = true ∧
      mapped.allocated 0 = false := by decide

theorem witness_PtReadPteAnswersTheRawEntry : mapped.fault = .none ∧ mapped.ptReady = true := by
  decide

theorem witness_TlbInitLoadsInvalidEntries :
    otherReset.fault = .none ∧ otherReset.tlbReady = false ∧ 1 < otherReset.cfg.n := by decide

theorem witness_TlbLookupHitMarksTheFirstMatch :
    twoCached.fault = .none ∧ twoCached.tlbReady = true ∧ TlbHasCapacity twoCached ∧
      1 < twoCached.cfg.n ∧ (twoCached.entry 1).holds 0xB = true ∧
      ∀ j, j < 1 → (twoCached.entry j).holds 0xB = false := by
  refine ⟨rfl, rfl, rfl, by decide, by decide, by decide⟩

theorem witness_TlbLookupMissChangesOnlyTheFlag :
    twoCached.fault = .none ∧ twoCached.tlbReady = true ∧ TlbHasCapacity twoCached ∧
      ∀ k, k < twoCached.cfg.n → (twoCached.entry k).holds 0xC = false :=
  ⟨rfl, rfl, rfl, by decide⟩

theorem witness_MissFlagIsTheContractAndTheLiteralLoop :
    twoCached.fault = .none ∧ twoCached.tlbReady = true ∧ TlbHasCapacity twoCached ∧
      (∃ t, exec (.tlbLookup 0xB .load) twoCached = .next t ∧ t.tlbMiss = some false) ∧
      ∃ t, exec (.tlbLookup 0xC .load) twoCached = .next t ∧ t.tlbMiss = some true :=
  ⟨rfl, rfl, rfl, ⟨_, rfl, rfl⟩, _, rfl, rfl⟩

theorem witness_TlbClearAllClearsEveryValidBit :
    bothReferenced.fault = .none ∧ bothReferenced.tlbReady = true ∧
      TlbHasCapacity bothReferenced ∧ 1 < bothReferenced.cfg.n := ⟨rfl, rfl, rfl, by decide⟩

theorem witness_TlbClearAllRefClearsEveryReferenceBit :
    bothReferenced.fault = .none ∧ bothReferenced.tlbReady = true ∧
      TlbHasCapacity bothReferenced ∧ 1 < bothReferenced.cfg.n := ⟨rfl, rfl, rfl, by decide⟩

theorem witness_TlbClearEntryClearsEveryMatch :
    twoCached.fault = .none ∧ twoCached.tlbReady = true ∧ TlbHasCapacity twoCached ∧
      (1 < twoCached.cfg.n ∧ (twoCached.entry 1).vpn = 0xB) ∧
      (0 < twoCached.cfg.n ∧ (twoCached.entry 0).vpn ≠ 0xB) :=
  ⟨rfl, rfl, rfl, by decide, by decide⟩

/-- The last index below `N` and the first one that is not, and the largest. -/
theorem witness_TlbReadEntryAnswersBothWords :
    ready.fault = .none ∧ ready.tlbReady = true ∧ (1 : TlbIndex).toNat < ready.cfg.n ∧
      ready.cfg.n ≤ (2 : TlbIndex).toNat ∧ ready.cfg.n ≤ (0xFFFFF : TlbIndex).toNat := by decide

theorem witness_TlbReadHandAnswersTheHand :
    bothReferenced.fault = .none ∧ bothReferenced.tlbReady = true := by decide

/-- A valid victim with a check that passes, and an invalid one. -/
theorem witness_TlbInsertReplacesTheVictim :
    twoCached.fault = .none ∧ twoCached.tlbReady = true ∧ TlbHasCapacity twoCached ∧
      HandInRange twoCached ∧ IsVictim twoCached 1 ∧
      (twoCached.cfg.checkUnique = true ∧ ¬ HeldElsewhere twoCached 1 0xC) ∧
      (twoCached.entry 1).valid = true ∧ IsVictim ready 0 ∧ (ready.entry 0).valid = false :=
  ⟨rfl, rfl, rfl, fun _ => by decide, victim_twoCached,
    ⟨rfl, by rw [← State.heldElsewhere_iff (s := twoCached) rfl]; decide⟩, by decide, victim_ready,
    by decide⟩

/-- No entry from the hand on is a candidate. -/
theorem noCandidate_bothReferenced :
    ∀ k, bothReferenced.hand.toNat ≤ k → k < bothReferenced.cfg.n →
      (bothReferenced.entry k).candidate = false := by
  intro k h1 h2
  have e1 : bothReferenced.hand.toNat = 1 := by decide
  have e2 : bothReferenced.cfg.n = 2 := rfl
  obtain rfl : k = 1 := by omega
  decide

theorem witness_FallbackVictimIsWrittenBack :
    bothReferenced.tlbReady = true ∧ TlbHasCapacity bothReferenced ∧ HandInRange bothReferenced ∧
      (∀ k, bothReferenced.hand.toNat ≤ k → k < bothReferenced.cfg.n →
        (bothReferenced.entry k).candidate = false) ∧
      ∃ t, exec (.tlbInsert 0xC 30 false false) bothReferenced = .next t ∧ t.fault = .none :=
  ⟨rfl, rfl, fun _ => by decide, noCandidate_bothReferenced, _, rfl, rfl⟩

/-- The victims 0 and `N - 1` of `N = 2`, and the only one of `N = 1`. -/
theorem witness_HandAdvancesPastTheVictim :
    (ready.tlbReady = true ∧ TlbHasCapacity ready ∧ HandInRange ready ∧ IsVictim ready 0 ∧
        0 + 1 < ready.cfg.n ∧
        ∃ t, exec (.tlbInsert 0xC 30 false false) ready = .next t ∧ t.fault = .none) ∧
      (twoCached.tlbReady = true ∧ TlbHasCapacity twoCached ∧ HandInRange twoCached ∧
        IsVictim twoCached 1 ∧ 1 + 1 = twoCached.cfg.n ∧
        ∃ t, exec (.tlbInsert 0xC 30 false false) twoCached = .next t ∧ t.fault = .none) ∧
      (small.tlbReady = true ∧ TlbHasCapacity small ∧ HandInRange small ∧ IsVictim small 0 ∧
        small.cfg.n = 1 ∧
        ∃ t, exec (.tlbInsert 0xC 30 false false) small = .next t ∧ t.fault = .none) :=
  ⟨⟨rfl, rfl, fun _ => by decide, victim_ready, by decide, _, rfl, rfl⟩,
    ⟨rfl, rfl, fun _ => by decide, victim_twoCached, rfl, _, rfl, rfl⟩,
    ⟨rfl, rfl, fun _ => by decide, victim_small, rfl, _, rfl, rfl⟩⟩

/-- Held elsewhere, held by the victim only, and an instance that does not check. -/
theorem witness_InsertDefendsUniquenessWhenAsked :
    (twoCached.fault = .none ∧ twoCached.tlbReady = true ∧ TlbHasCapacity twoCached ∧
        HandInRange twoCached ∧ IsVictim twoCached 1 ∧ twoCached.cfg.checkUnique = true ∧
        HeldElsewhere twoCached 1 0xA ∧ ¬ HeldElsewhere twoCached 1 0xB ∧
        (twoCached.entry 1).holds 0xB = true) ∧
      (unchecked.fault = .none ∧ unchecked.tlbReady = true ∧ TlbHasCapacity unchecked ∧
        HandInRange unchecked ∧ IsVictim unchecked 1 ∧ unchecked.cfg.checkUnique = false ∧
        HeldElsewhere unchecked 1 0xA) :=
  ⟨⟨rfl, rfl, rfl, fun _ => by decide, victim_twoCached, rfl, ⟨0, by decide, by decide, by decide⟩,
      by rw [← State.heldElsewhere_iff (s := twoCached) rfl]; decide, by decide⟩,
    rfl, rfl, rfl, fun _ => by decide, victim_unchecked, rfl, 0, by decide, by decide, by decide⟩

theorem witness_InsertionPhasesPerformTheAtomicCommand :
    bothReferenced.fault = .none ∧ bothReferenced.tlbReady = true ∧
      TlbHasCapacity bothReferenced ∧ HandInRange bothReferenced :=
  ⟨rfl, rfl, rfl, fun _ => by decide⟩

theorem witness_TlbWriteBackSendsEveryValidEntry :
    bothReferenced.fault = .none ∧ bothReferenced.tlbReady = true ∧ TlbHasCapacity bothReferenced :=
  ⟨rfl, rfl, rfl⟩

theorem witness_OnlyInsertAndWriteBackSendEvents :
    TlbHasCapacity twoCached ∧
      (∃ t, exec .tlbWriteBack twoCached = .next t ∧ t.notify ≠ twoCached.notify) ∧
      ∃ t, exec (.tlbInsert 0xC 30 false false) twoCached = .next t ∧
        t.notify ≠ twoCached.notify :=
  ⟨rfl, ⟨_, rfl, by decide⟩, _, rfl, by decide⟩

theorem witness_WriteBackReportsSetBitsOnce :
    bothReferenced.tlbReady = true ∧ TlbHasCapacity bothReferenced ∧ 1 < bothReferenced.cfg.n ∧
      (bothReferenced.entry 1).valid = true ∧ (bothReferenced.entry 1).referenced = true ∧
      (bothReferenced.entry 1).modified = true ∧ IsVictim bothReferenced 1 ∧
      (∃ t, exec (.tlbInsert 0xC 30 false false) bothReferenced = .next t ∧ t.fault = .none) ∧
      ∃ t, exec .tlbWriteBack bothReferenced = .next t :=
  ⟨rfl, rfl, by decide, by decide, by decide, by decide, victim_bothReferenced, ⟨_, rfl, rfl⟩, _, rfl⟩

/-- A state with a table, a mapping and a cached translation that meets the invariants. -/
theorem inv_mapped : Inv { mapped with tlb := [⟨0x8000000A, 0x8000000A⟩, ⟨0, 0⟩], hand := 1 } where
  capacity := rfl
  hand := fun _ => by decide
  counted := fun _ => by decide +kernel
  unused := fun _ v _ => by
    show pteUnused (if 0x12345 = pteKey v then 0x800ABCDE else 0) = 0
    split <;> decide
  canonical := by show Memory.wf _ = true; decide +kernel
  unique := fun _ _ j k v hj hk => by
    have only : ∀ n, (State.entry { mapped with
        tlb := [⟨0x8000000A, 0x8000000A⟩, ⟨0, 0⟩], hand := 1 } n).holds v = true → n = 0 := by
      intro n hn
      match n, hn with
      | 0, _ => rfl
      | 1, h => exact absurd h (by rw [show State.entry _ 1 = ⟨0, 0⟩ from rfl, TlbEntry.zero_holds]; simp)
      | n + 2, h => exact absurd (State.lt_of_holds h) (by simp)
    rw [only j hj, only k hk]

theorem witness_StepKeepsTheInvariants :
    ∃ s t, Inv s ∧ step s = .next t ∧ t.l2Used ≠ s.l2Used := by
  refine ⟨{ mapped with
    tlb := [⟨0x8000000A, 0x8000000A⟩, ⟨0, 0⟩], hand := 1, input := [0x000FFFFF0FFFFF02] }, _, ?_, rfl,
    by decide⟩
  exact ⟨inv_mapped.capacity, inv_mapped.hand, inv_mapped.counted, inv_mapped.unused,
    inv_mapped.canonical, inv_mapped.unique⟩

theorem witness_ResetMeetsTheInvariants :
    IsReset Config.standard otherReset ∧ StorageCanonical otherReset :=
  ⟨isReset_otherReset, by show _ = _; decide⟩

/-- PT_INIT, then an update of the last VPN. -/
theorem witness_EveryRunFromResetMeetsTheInvariants :
    IsReset Config.standard otherReset ∧ StorageCanonical otherReset ∧
      ∃ t, Host.Core.run Sys2Proof.core 2
        { otherReset with input := [0x0, 0x000FFFFF0FFFFF02] } = .next t ∧ t.l2Used = 1 :=
  ⟨isReset_otherReset, by show _ = _; decide, _, rfl, rfl⟩

theorem witness_UnusedEntryBitsStayZero :
    (twoCached.tlbReady = true ∧ TlbHasCapacity twoCached ∧ HandInRange twoCached ∧
        IsVictim twoCached 1 ∧
        ∃ t, exec (.tlbInsert 0xC 30 false false) twoCached = .next t ∧ t.fault = .none) ∧
      (∃ t, exec .tlbClearAll twoCached = .next t) ∧ EntryUnusedZero twoCached 0 ∧
      EntryUnusedZero twoCached 1 :=
  ⟨⟨rfl, rfl, fun _ => by decide, victim_twoCached, _, rfl, rfl⟩, ⟨_, rfl⟩, by unfold EntryUnusedZero; decide,
    by unfold EntryUnusedZero; decide⟩

theorem witness_StateChangesOnlyByItsWriters :
    (∃ t, exec (.ptUpdate 0 1) mapped = .next t ∧ t.l1a ≠ mapped.l1a ∧ t.pte ≠ mapped.pte ∧
        t.l2Used ≠ mapped.l2Used) ∧
      (∃ t, exec .ptInit State.reset = .next t ∧ t.ptReady ≠ State.reset.ptReady) ∧
      (∃ t, exec (.ptGetFrame 0) mapped = .next t ∧ t.pageFault ≠ mapped.pageFault) ∧
      (∃ t, exec .tlbInit State.reset = .next t ∧ t.tlbReady ≠ State.reset.tlbReady) ∧
      (∃ t, exec (.tlbInsert 0xC 30 false false) ready = .next t ∧ t.hand ≠ ready.hand ∧
        (t.entry 0).w1 ≠ (ready.entry 0).w1 ∧ (t.entry 0).w2 ≠ (ready.entry 0).w2) ∧
      ∃ t, exec (.tlbLookup 0xB .load) twoCached = .next t ∧ t.tlbMiss ≠ twoCached.tlbMiss :=
  ⟨⟨_, rfl, by decide, by decide, by decide⟩, ⟨_, rfl, by decide⟩, ⟨_, rfl, by decide⟩,
    ⟨_, rfl, by decide⟩, ⟨_, rfl, by decide, by decide, by decide⟩, _, rfl, by decide⟩

theorem witness_SubBlocksAreIndependent :
    isPageTableCommand (.ptUpdate 1 2) = true ∧
      isPageTableCommand (.tlbInsert 1 2 true false) = false := by decide

/-- A command that draws, and one that does not. -/
theorem witness_RepeatedCommandChangesNothingMore :
    (∃ t, exec (.ptGetFrame 0) mapped = .next t ∧ t.fault = .none ∧ t.draws ≠ mapped.draws) ∧
      ∃ t, exec (.tlbLookup 0xB .store) twoCached = .next t ∧ t.fault = .none ∧
        t.draws = twoCached.draws :=
  ⟨⟨_, rfl, rfl, by decide⟩, _, rfl, rfl, rfl⟩

theorem witness_UpdatedMappingIsReturnedUntilChanged :
    ∃ t u, exec (.ptUpdate 0x12345 0xABCDE) ready = .next t ∧
      (∀ i ∈ [Instr.ptUpdate 0x12346 1, .ptClearEntry 0x12344], changesMapping 0x12345 i = false) ∧
      runCommands [.ptUpdate 0x12346 1, .ptClearEntry 0x12344] t = .next u ∧ u.fault = .none :=
  ⟨_, _, rfl, by decide, rfl, rfl⟩

theorem witness_NeverUpdatedVpnPageFaults :
    ∃ u, otherReset.ptReady = false ∧
      runCommands [.ptInit, .ptUpdate 0x00400 5, .ptClearEntry 0x00401] otherReset = .next u ∧
      (∀ i ∈ [Instr.ptUpdate 0x00400 5, .ptClearEntry 0x00401], updatesVpn 0x00401 i = false) ∧
      u.fault = .none := ⟨_, rfl, rfl, by decide, rfl⟩

theorem witness_ClearedMappingCanBeInstalledAgain :
    ∃ t, exec (.ptUpdate 0x12345 0xABCDE) ready = .next t ∧ t.fault = .none := ⟨_, rfl, rfl⟩

theorem witness_InsertedTranslationHits :
    twoCached.tlbReady = true ∧ TlbHasCapacity twoCached ∧ HandInRange twoCached ∧
      IsVictim twoCached 1 ∧ (∀ j, j < 1 → (twoCached.entry j).holds 0xC = false) ∧
      ∃ t, exec (.tlbInsert 0xC 30 false false) twoCached = .next t ∧ t.fault = .none :=
  ⟨rfl, rfl, fun _ => by decide, victim_twoCached, by decide, _, rfl, rfl⟩

theorem witness_FlushedTranslationMissesUntilInserted :
    (∃ t u, exec .tlbClearAll twoCached = .next t ∧
        (∀ i ∈ [Instr.tlbInsert 0xB 7 false false, .tlbReadHand], insertsVpn 0xA i = false) ∧
        runCommands [.tlbInsert 0xB 7 false false, .tlbReadHand] t = .next u ∧ u.fault = .none) ∧
      ∃ t u, exec (.tlbClearEntry 0xA) twoCached = .next t ∧
        (∀ i ∈ [Instr.tlbWriteBack], insertsVpn 0xA i = false) ∧
        runCommands [.tlbWriteBack] t = .next u ∧ u.fault = .none :=
  ⟨⟨_, _, rfl, by decide, rfl, rfl⟩, _, _, rfl, by decide, rfl, rfl⟩

theorem witness_OneInsertBeyondCapacityEvictsExactlyOne :
    otherReset.fault = .none ∧ otherReset.tlbReady = false ∧
      ([(1, 0x11, false, true), (2, 0x12, true, true)] :
        List (Vpn × Pfn × Bool × Bool)).length = otherReset.cfg.n ∧
      (([(1, 0x11, false, true), (2, 0x12, true, true)] :
        List (Vpn × Pfn × Bool × Bool)).map fun e => e.1).Nodup ∧
      (3 : Vpn) ∉ ([(1, 0x11, false, true), (2, 0x12, true, true)] :
        List (Vpn × Pfn × Bool × Bool)).map fun e => e.1 := by decide

end Sys2Proof.Tests
end

section
/-! PROOFS of the statements of `00_scope.md`: a step is the command its word decodes to (R7), and the
sub-blocks do not see each other's state (R3). -/

namespace Sys2Proof.Machine

/-! ### The command port (R4, R64) -/

theorem State.fetch_of_input {s : State} {w : Word64} {rest : List Word64}
    (h : s.input = w :: rest) : s.fetch = some (w, { s with input := rest }) := by
  rw [State.fetch, h]

/-- Settles O9: the fetched word is the head of the driver's sequence, and the decoder's answer selects the
command's meaning. -/
theorem stepRunsTheDecodedCommand : Obligations.StepRunsTheDecodedCommand := by
  intro s w rest i hinput hdecode
  have hfetch := State.fetch_of_input hinput
  simp only [step, hfetch, hdecode]

/-! ### Changes of the state that the ends and the guards of a command do not see -/

/-- A change of the state that a command's ends carry over to the state they answer, and that keeps the
fault code: replacing the state of a sub-block is such a change. -/
structure CommutesWithEnds (g : State → State) : Prop where
  fault : ∀ s, (g s).fault = s.fault
  complete : ∀ q s, complete q (g s) = mapNext g (complete q s)
  completeAbsent : ∀ s, completeAbsent (g s) = mapNext g (completeAbsent s)
  raise : ∀ c s, raise c (g s) = mapNext g (raise c s)

theorem commutesWithEnds_withTlbOf (r : State) : CommutesWithEnds fun t => t.withTlbOf r :=
  ⟨fun _ => rfl, fun _ _ => rfl, fun _ => rfl, fun _ _ => rfl⟩

theorem commutesWithEnds_withPageTableOf (r : State) :
    CommutesWithEnds fun t => t.withPageTableOf r :=
  ⟨fun _ => rfl, fun _ _ => rfl, fun _ => rfl, fun _ _ => rfl⟩

/-- A choice of the command commutes with a change of the state when both its outcomes do. -/
theorem ite_eq_mapNext {g : State → State} {c : Prop} [Decidable c] {a a' b b' : Result}
    (ha : a' = mapNext g a) (hb : b' = mapNext g b) :
    (if c then a' else b') = mapNext g (if c then a else b) := by
  rw [apply_ite (mapNext g), ha, hb]

section Guards

variable {g : State → State} (hg : CommutesWithEnds g) {s : State} {body body' : Result}
include hg

theorem CommutesWithEnds.unlessHalted (hbody : body' = mapNext g body) :
    unlessHalted (g s) body' = mapNext g (unlessHalted s body) := by
  have hhalted : (g s).halted = s.halted := by rw [State.halted, hg.fault, State.halted]
  rw [Machine.unlessHalted, hhalted]
  exact ite_eq_mapNext rfl hbody

theorem CommutesWithEnds.ptCommand (hready : (g s).ptReady = s.ptReady)
    (hbody : body' = mapNext g body) : ptCommand (g s) body' = mapNext g (ptCommand s body) := by
  rw [Machine.ptCommand, hready]
  exact hg.unlessHalted (ite_eq_mapNext hbody (hg.raise _ _))

theorem CommutesWithEnds.tlbCommand (hready : (g s).tlbReady = s.tlbReady)
    (hbody : body' = mapNext g body) : tlbCommand (g s) body' = mapNext g (tlbCommand s body) := by
  rw [Machine.tlbCommand, hready]
  exact hg.unlessHalted (ite_eq_mapNext hbody (hg.raise _ _))

end Guards

/-! ### The page-table commands and the state of the TLB (R3, R110)

Each read of the page table is the same after the replacement, and each write to it commutes with the
replacement; both hold by computation. What remains is the guard and the choices of the command. -/

theorem execPtInit_withTlbOf (s r : State) :
    execPtInit (s.withTlbOf r) = mapNext (fun t => t.withTlbOf r) (execPtInit s) :=
  (commutesWithEnds_withTlbOf r).unlessHalted (ite_eq_mapNext rfl rfl)

theorem execPtGetFrame_withTlbOf (v : Vpn) (s r : State) :
    execPtGetFrame v (s.withTlbOf r) = mapNext (fun t => t.withTlbOf r) (execPtGetFrame v s) := by
  have hread : (s.withTlbOf r).ptTranslate v = s.ptTranslate v := rfl
  refine (commutesWithEnds_withTlbOf r).ptCommand rfl ?_
  rw [hread]
  cases s.ptTranslate v with
  | some f => rfl
  | none => rfl

theorem execPtUpdate_withTlbOf (v : Vpn) (f : Pfn) (s r : State) :
    execPtUpdate v f (s.withTlbOf r) = mapNext (fun t => t.withTlbOf r) (execPtUpdate v f s) :=
  (commutesWithEnds_withTlbOf r).ptCommand rfl (ite_eq_mapNext rfl (ite_eq_mapNext rfl rfl))

theorem execPtClearEntry_withTlbOf (v : Vpn) (s r : State) :
    execPtClearEntry v (s.withTlbOf r) = mapNext (fun t => t.withTlbOf r) (execPtClearEntry v s) := by
  have hread : (s.withTlbOf r).allocated v = s.allocated v := rfl
  refine (commutesWithEnds_withTlbOf r).ptCommand rfl ?_
  rw [hread]
  cases s.allocated v with
  | true => rfl
  | false => rfl

theorem execPtReadPte_withTlbOf (v : Vpn) (s r : State) :
    execPtReadPte v (s.withTlbOf r) = mapNext (fun t => t.withTlbOf r) (execPtReadPte v s) :=
  (commutesWithEnds_withTlbOf r).ptCommand rfl rfl

theorem exec_withTlbOf {i : Instr} (h : isPageTableCommand i = true) (s r : State) :
    exec i (s.withTlbOf r) = mapNext (fun t => t.withTlbOf r) (exec i s) := by
  cases i with
  | ptInit => exact execPtInit_withTlbOf s r
  | ptGetFrame v => exact execPtGetFrame_withTlbOf v s r
  | ptUpdate v f => exact execPtUpdate_withTlbOf v f s r
  | ptClearEntry v => exact execPtClearEntry_withTlbOf v s r
  | ptReadPte v => exact execPtReadPte_withTlbOf v s r
  | _ => cases h

/-! ### The TLB commands and the state of the page table (R3, R140) -/

theorem execTlbInit_withPageTableOf (s r : State) :
    execTlbInit (s.withPageTableOf r) = mapNext (fun t => t.withPageTableOf r) (execTlbInit s) :=
  (commutesWithEnds_withPageTableOf r).unlessHalted (ite_eq_mapNext rfl rfl)

theorem execTlbLookup_withPageTableOf (v : Vpn) (op : Access) (s r : State) :
    execTlbLookup v op (s.withPageTableOf r) =
      mapNext (fun t => t.withPageTableOf r) (execTlbLookup v op s) := by
  have hread : (s.withPageTableOf r).tlbFind v = s.tlbFind v := rfl
  refine (commutesWithEnds_withPageTableOf r).tlbCommand rfl ?_
  rw [hread]
  cases s.tlbFind v with
  | some k => rfl
  | none => rfl

theorem execTlbInsert_withPageTableOf (v : Vpn) (f : Pfn) (m b : Bool) (s r : State) :
    execTlbInsert v f m b (s.withPageTableOf r) =
      mapNext (fun t => t.withPageTableOf r) (execTlbInsert v f m b s) :=
  (commutesWithEnds_withPageTableOf r).tlbCommand rfl (ite_eq_mapNext rfl rfl)

theorem execTlbReadEntry_withPageTableOf (k : TlbIndex) (s r : State) :
    execTlbReadEntry k (s.withPageTableOf r) =
      mapNext (fun t => t.withPageTableOf r) (execTlbReadEntry k s) :=
  (commutesWithEnds_withPageTableOf r).tlbCommand rfl (ite_eq_mapNext rfl rfl)

/-- The commands that make no choice of their own have only the guard of R140 to pass. -/
theorem exec_withPageTableOf {i : Instr} (h : isPageTableCommand i = false) (s r : State) :
    exec i (s.withPageTableOf r) = mapNext (fun t => t.withPageTableOf r) (exec i s) := by
  have hg := commutesWithEnds_withPageTableOf r
  cases i with
  | tlbInit => exact execTlbInit_withPageTableOf s r
  | tlbLookup v op => exact execTlbLookup_withPageTableOf v op s r
  | tlbInsert v f m b => exact execTlbInsert_withPageTableOf v f m b s r
  | tlbClearAll => exact hg.tlbCommand rfl rfl
  | tlbClearAllRef => exact hg.tlbCommand rfl rfl
  | tlbClearEntry v => exact hg.tlbCommand rfl rfl
  | tlbWriteBack => exact hg.tlbCommand rfl rfl
  | tlbReadEntry k => exact execTlbReadEntry_withPageTableOf k s r
  | tlbReadHand => exact hg.tlbCommand rfl rfl
  | _ => cases h

/-- Settles O48: each command commutes with the replacement of the other sub-block's state. -/
theorem subBlocksAreIndependent : Obligations.SubBlocksAreIndependent :=
  ⟨fun _ s r hi => exec_withTlbOf hi s r, fun _ s r hi => exec_withPageTableOf hi s r⟩

end Sys2Proof.Machine
end

section
/-! PROOFS of the statements of `10_state.md`: what reset leaves unspecified is unobservable (R35, R28),
every step keeps the invariants (R34), and each piece of state changes only by its writers (R22). -/

namespace Sys2Proof.Machine

/-! ### One step (R7, R83, R236) -/

/-- All that a step can do, when it answers a next state: nothing, with no word waiting; the fault of an
illegal word; or the command of a legal word. -/
theorem step_effect {s t : State} (h : step s = .next t) :
    t = s ∨ ∃ w rest, s.input = w :: rest ∧
      (t = { s with input := rest, fault := .illegalCommand } ∨
        ∃ i, decode w = .ok i ∧ CommandEffect i { s with input := rest } t) := by
  cases hinput : s.input with
  | nil =>
    simp only [step, State.fetch, hinput, unlessHalted_eq_next, Host.Outcome.next.injEq] at h
    exact .inl h.2.symm
  | cons w rest =>
    simp only [step, State.fetch_of_input hinput] at h
    refine .inr ⟨w, rest, rfl, ?_⟩
    cases hdecode : decode w with
    | ok i =>
      rw [hdecode] at h
      exact .inr ⟨i, rfl, exec_effect h⟩
    | error x =>
      rw [hdecode] at h
      exact .inl ((raise_eq_next ..).1 (unlessHalted_eq_next.1 h).2)

/-- What every step of a machine keeps holds of every state that a run of it reaches. -/
theorem run_keeps {M : Host.Core} {P : M.State → Prop}
    (hstep : ∀ s t, P s → M.step s = .next t → P t) {k : Nat} {s t : M.State} (hs : P s)
    (hrun : M.run k s = .next t) : P t := by
  induction k generalizing s with
  | zero => cases hrun; exact hs
  | succ k ih =>
    rw [Host.Core.run] at hrun
    split at hrun
    · next u hu => exact ih (hstep s u hs hu) hrun
    · cases hrun
    · cases hrun

/-! ### Power-on reset (R35) -/

/-- The model's reset state of a configuration is a power-on state of it. -/
theorem State.resetOf_isReset (cfg : Config) : IsReset cfg (State.resetOf cfg) :=
  ⟨rfl, rfl, rfl, rfl, rfl, rfl, rfl, List.length_replicate⟩

/-- Settles O17: each field of the reset state is read off its definition. -/
theorem resetStateIsAsPowerOnResetLeavesIt : Obligations.ResetStateIsAsPowerOnResetLeavesIt :=
  ⟨State.resetOf_isReset, rfl⟩

/-! ### Indistinguishable states (R35, R28)

What a page-table command reads is the same in both states once `PT_READY` is 1, and what any command
writes is the same in both. -/

section Indistinguishable

variable {s t : State} (h : Indistinguishable s t)
include h

theorem Indistinguishable.slotAllocated_eq (hr : s.ptReady = true) (i : TableIndex) :
    t.slotAllocated i = s.slotAllocated i := by
  rw [State.slotAllocated, h.l1a hr, State.slotAllocated]

theorem Indistinguishable.allocated_eq (hr : s.ptReady = true) (v : Vpn) :
    t.allocated v = s.allocated v :=
  h.slotAllocated_eq hr (l1 v)

theorem Indistinguishable.poolUsedUp_eq (hr : s.ptReady = true) : t.poolUsedUp = s.poolUsedUp := by
  rw [State.poolUsedUp, h.l2Used hr, h.cfg, State.poolUsedUp]

/-- The translation reads a PTE only where its slot is allocated. -/
theorem Indistinguishable.ptTranslate_eq (hr : s.ptReady = true) (v : Vpn) :
    t.ptTranslate v = s.ptTranslate v := by
  rw [State.ptTranslate, h.allocated_eq hr, State.ptTranslate]
  cases ha : s.allocated v with
  | false => rfl
  | true => rw [h.pteAt hr v ha]

theorem Indistinguishable.drawn_eq : t.drawn = s.drawn := by
  rw [State.drawn, h.draws, State.drawn]

theorem Indistinguishable.halted_eq : t.halted = s.halted := by
  rw [State.halted, h.fault, State.halted]

theorem Indistinguishable.respond (q : Response) :
    Indistinguishable { s with responses := s.responses ++ [q] }
      { t with responses := t.responses ++ [q] } :=
  { h with responses := congrArg (· ++ [q]) h.responses }

theorem Indistinguishable.recordFault (c : FaultCode) :
    Indistinguishable { s with fault := c } { t with fault := c } :=
  { h with fault := rfl }

theorem Indistinguishable.draw :
    Indistinguishable { s with draws := s.draws + 1 } { t with draws := t.draws + 1 } :=
  { h with draws := congrArg (· + 1) h.draws }

theorem Indistinguishable.takeWord (rest : List Word64) :
    Indistinguishable { s with input := rest } { t with input := rest } :=
  { h with input := rfl }

theorem Indistinguishable.setPageFault (b : Bool) :
    Indistinguishable (s.setPageFault b) (t.setPageFault b) :=
  { h with pageFault := rfl }

/-- The PTE is written in both states, and every other one is as it was. -/
theorem Indistinguishable.setPteAt (v : Vpn) (w : Word32) :
    Indistinguishable (s.setPteAt v w) (t.setPteAt v w) where
  __ := h
  pteAt hr u ha := by
    rw [State.pteAt_setPteAt, State.pteAt_setPteAt, h.pteAt hr u ha]

/-- The newly allocated table reads as zeros in both states, whatever its PTEs held before (R28, R113). -/
theorem Indistinguishable.allocateTable (hr : s.ptReady = true) (i : TableIndex) :
    Indistinguishable (s.allocateTable i) (t.allocateTable i) where
  __ := h
  l1a _ := congrArg (setSlot · i) (h.l1a hr)
  l2Used _ := congrArg (· + 1) (h.l2Used hr)
  pteAt _ u ha := by
    rw [State.pteAt_allocateTable, State.pteAt_allocateTable]
    split
    · rfl
    · next hne =>
      have hold : s.allocated u = true := by simpa [State.allocated, hne] using ha
      exact h.pteAt hr u hold

/-- PT_INIT makes `L1A` and `L2_USED` definite and leaves no PTE observable (R111). -/
theorem Indistinguishable.initPageTable :
    Indistinguishable { s with l1a := [], l2Used := 0, ptReady := true }
      { t with l1a := [], l2Used := 0, ptReady := true } :=
  { h with ptReady := rfl, l1a := fun _ => rfl, l2Used := fun _ => rfl, pteAt := nofun }

/-- TLB_INIT makes every entry and the hand definite (R141). -/
theorem Indistinguishable.initTlb :
    Indistinguishable
      { s with tlb := s.cfg.tlbInitContents.map TlbEntry.invalidated, hand := 0, tlbReady := true }
      { t with tlb := t.cfg.tlbInitContents.map TlbEntry.invalidated, hand := 0, tlbReady := true } :=
  { h with
    tlbReady := rfl
    tlb := fun _ => by rw [h.cfg]
    hand := fun _ => rfl }

/-- Once TLB_INIT has run, only the page table can differ. -/
theorem Indistinguishable.eq_withPageTableOf (hr : s.tlbReady = true) :
    t = s.withPageTableOf t := by
  obtain ⟨hcfg, -, hready, -, hmiss, hfault, hnotify, hresp, hinput, hdraws, -, -, -, htlb, hhand⟩ := h
  cases t
  simp_all [State.withPageTableOf]

/-- The page tables of indistinguishable states stay indistinguishable beside any one TLB. -/
theorem Indistinguishable.withPageTableOf (u : State) :
    Indistinguishable (u.withPageTableOf s) (u.withPageTableOf t) where
  cfg := rfl
  ptReady := h.ptReady
  tlbReady := rfl
  pageFault := h.pageFault
  tlbMiss := rfl
  fault := rfl
  notify := rfl
  responses := rfl
  input := rfl
  draws := rfl
  l1a := h.l1a
  l2Used := h.l2Used
  pteAt := h.pteAt
  tlb _ := rfl
  hand _ := rfl

end Indistinguishable

/-! ### Indistinguishable outcomes -/

/-- Both outcomes are a next state, and these are indistinguishable, or both stop for one reason. -/
inductive IndistinguishableOutcomes : Result → Result → Prop where
  | next {s t : State} (h : Indistinguishable s t) : IndistinguishableOutcomes (.next s) (.next t)
  | fault (f : Fault) : IndistinguishableOutcomes (.fault f) (.fault f)
  | refused (r : Refusal) : IndistinguishableOutcomes (.refused r) (.refused r)

theorem IndistinguishableOutcomes.exists_next {x y : Result} (h : IndistinguishableOutcomes x y)
    {s : State} (hx : x = .next s) : ∃ t, y = .next t ∧ Indistinguishable s t := by
  cases h with
  | next h => cases hx; exact ⟨_, rfl, h⟩
  | fault f => cases hx
  | refused r => cases hx

theorem IndistinguishableOutcomes.eq_fault {x y : Result} (h : IndistinguishableOutcomes x y)
    {f : Fault} (hx : x = .fault f) : y = .fault f := by
  cases h with
  | next h => cases hx
  | fault f => exact hx
  | refused r => cases hx

/-- One choice made in both states, with indistinguishable outcomes on either side. -/
theorem IndistinguishableOutcomes.ite {c : Prop} [Decidable c] {x x' y y' : Result}
    (hx : IndistinguishableOutcomes x x') (hy : IndistinguishableOutcomes y y') :
    IndistinguishableOutcomes (if c then x else y) (if c then x' else y') := by
  split
  · exact hx
  · exact hy

section Outcomes

variable {s t : State} (h : Indistinguishable s t)
include h

theorem Indistinguishable.complete (q : Response) :
    IndistinguishableOutcomes (complete q s) (complete q t) :=
  .next (h.respond q)

theorem Indistinguishable.raise (c : FaultCode) :
    IndistinguishableOutcomes (raise c s) (raise c t) :=
  .next (h.recordFault c)

/-- The same draw is answered in both (assumption 3). -/
theorem Indistinguishable.completeAbsent :
    IndistinguishableOutcomes (completeAbsent s) (completeAbsent t) := by
  rw [Machine.completeAbsent, Machine.completeAbsent, h.drawn_eq]
  exact h.draw.complete _

theorem Indistinguishable.unlessHalted {x y : Result} (hxy : IndistinguishableOutcomes x y) :
    IndistinguishableOutcomes (unlessHalted s x) (unlessHalted t y) := by
  rw [Machine.unlessHalted, Machine.unlessHalted, h.halted_eq]
  exact .ite (.fault .halted) hxy

/-- A page-table command's own work counts only once PT_INIT has run (R110). -/
theorem Indistinguishable.ptCommand {x y : Result}
    (hxy : s.ptReady = true → IndistinguishableOutcomes x y) :
    IndistinguishableOutcomes (ptCommand s x) (ptCommand t y) := by
  refine h.unlessHalted ?_
  rw [h.ptReady]
  split
  · next hr => exact hxy hr
  · exact h.raise _

/-- Before TLB_INIT no TLB command gets past its guard (R140). -/
theorem Indistinguishable.tlbCommand_of_not_ready (hr : s.tlbReady = false) (x y : Result) :
    IndistinguishableOutcomes (tlbCommand s x) (tlbCommand t y) := by
  refine h.unlessHalted ?_
  rw [h.tlbReady, hr]
  exact h.raise _

/-! ### The commands in indistinguishable states -/

theorem Indistinguishable.execPtInit :
    IndistinguishableOutcomes (execPtInit s) (execPtInit t) := by
  refine h.unlessHalted ?_
  rw [h.ptReady]
  exact .ite (h.raise _) (h.initPageTable.complete _)

theorem Indistinguishable.execPtGetFrame (v : Vpn) :
    IndistinguishableOutcomes (execPtGetFrame v s) (execPtGetFrame v t) := by
  refine h.ptCommand fun hr => ?_
  rw [h.ptTranslate_eq hr]
  cases s.ptTranslate v with
  | some f => exact (h.setPageFault false).complete _
  | none => exact (h.setPageFault true).completeAbsent

theorem Indistinguishable.execPtUpdate (v : Vpn) (f : Pfn) :
    IndistinguishableOutcomes (execPtUpdate v f s) (execPtUpdate v f t) := by
  refine h.ptCommand fun hr => ?_
  rw [h.allocated_eq hr, h.poolUsedUp_eq hr]
  exact .ite ((h.setPteAt ..).complete _)
    (.ite (h.raise _) (((h.allocateTable hr _).setPteAt ..).complete _))

/-- PT_CLEAR_ENTRY reads the PTE only where its slot is allocated. -/
theorem Indistinguishable.execPtClearEntry (v : Vpn) :
    IndistinguishableOutcomes (execPtClearEntry v s) (execPtClearEntry v t) := by
  refine h.ptCommand fun hr => ?_
  rw [h.allocated_eq hr]
  cases ha : s.allocated v with
  | true => rw [h.pteAt hr v ha]; exact (h.setPteAt ..).complete _
  | false => exact h.complete _

theorem Indistinguishable.execPtReadPte (v : Vpn) :
    IndistinguishableOutcomes (execPtReadPte v s) (execPtReadPte v t) := by
  refine h.ptCommand fun hr => ?_
  rw [h.allocated_eq hr]
  cases ha : s.allocated v with
  | true => rw [h.pteAt hr v ha]; exact h.complete _
  | false => exact h.complete _

theorem Indistinguishable.execTlbInit :
    IndistinguishableOutcomes (execTlbInit s) (execTlbInit t) := by
  refine h.unlessHalted ?_
  rw [h.tlbReady]
  exact .ite (h.raise _) (h.initTlb.complete _)

/-- Once TLB_INIT has run, a TLB command is the same command beside another page table, which it neither
reads nor writes (R3). -/
theorem Indistinguishable.exec_of_tlbReady {i : Instr} (hi : isPageTableCommand i = false)
    (hr : s.tlbReady = true) : IndistinguishableOutcomes (exec i s) (exec i t) := by
  have hs : exec i s = mapNext (fun u => u.withPageTableOf s) (exec i s) :=
    exec_withPageTableOf hi s s
  have ht : exec i t = mapNext (fun u => u.withPageTableOf t) (exec i s) := by
    rw [← exec_withPageTableOf hi s t, ← h.eq_withPageTableOf hr]
  rw [ht, hs]
  cases exec i s with
  | next u => exact .next (h.withPageTableOf u)
  | fault f => exact .fault f
  | refused r => exact .refused r

theorem Indistinguishable.exec_of_not_tlbReady {i : Instr} (hi : isPageTableCommand i = false)
    (hr : s.tlbReady = false) : IndistinguishableOutcomes (exec i s) (exec i t) := by
  cases i with
  | tlbInit => exact h.execTlbInit
  | ptInit | ptGetFrame | ptUpdate | ptClearEntry | ptReadPte => cases hi
  | _ => exact h.tlbCommand_of_not_ready hr ..

theorem Indistinguishable.exec (i : Instr) : IndistinguishableOutcomes (exec i s) (exec i t) := by
  cases hi : isPageTableCommand i with
  | true =>
    cases i with
    | ptInit => exact h.execPtInit
    | ptGetFrame v => exact h.execPtGetFrame v
    | ptUpdate v f => exact h.execPtUpdate v f
    | ptClearEntry v => exact h.execPtClearEntry v
    | ptReadPte v => exact h.execPtReadPte v
    | _ => cases hi
  | false =>
    cases hr : s.tlbReady with
    | true => exact h.exec_of_tlbReady hi hr
    | false => exact h.exec_of_not_tlbReady hi hr

/-- The same word is taken in both, and decodes to the same command. -/
theorem Indistinguishable.step : IndistinguishableOutcomes (step s) (step t) := by
  cases hs : s.input with
  | nil =>
    have ht : t.input = [] := h.input.trans hs
    simp only [Machine.step, State.fetch, hs, ht]
    exact h.unlessHalted (.next h)
  | cons w rest =>
    have ht : t.input = w :: rest := h.input.trans hs
    simp only [Machine.step, State.fetch_of_input hs, State.fetch_of_input ht]
    cases decode w with
    | ok i => exact (h.takeWord rest).exec i
    | error x => exact (h.takeWord rest).unlessHalted ((h.takeWord rest).raise _)

end Outcomes

/-- Power-on states differ only in what R35 leaves unspecified: neither sub-block is ready. -/
theorem IsReset.indistinguishable {cfg : Config} {s t : State} (hs : IsReset cfg s)
    (ht : IsReset cfg t) (hinput : t.input = s.input) (hresponses : t.responses = s.responses)
    (hdraws : t.draws = s.draws) : Indistinguishable s t where
  cfg := ht.sameCfg.trans hs.sameCfg.symm
  ptReady := ht.ptReady.trans hs.ptReady.symm
  tlbReady := ht.tlbReady.trans hs.tlbReady.symm
  pageFault := ht.pageFault.trans hs.pageFault.symm
  tlbMiss := ht.tlbMiss.trans hs.tlbMiss.symm
  fault := ht.fault.trans hs.fault.symm
  notify := ht.notify.trans hs.notify.symm
  responses := hresponses
  input := hinput
  draws := hdraws
  l1a hr := absurd hr (by simp [hs.ptReady])
  l2Used hr := absurd hr (by simp [hs.ptReady])
  pteAt hr := absurd hr (by simp [hs.ptReady])
  tlb hr := absurd hr (by simp [hs.tlbReady])
  hand hr := absurd hr (by simp [hs.tlbReady])

/-- Settles O18: power-on states are indistinguishable, and a step keeps it or stops in both. -/
theorem unspecifiedResetContentsAreUnobservable :
    Obligations.UnspecifiedResetContentsAreUnobservable :=
  ⟨fun _ _ _ hs ht => hs.indistinguishable ht, fun _ _ _ h hstep => h.step.exists_next hstep,
    fun _ _ _ h hstep => h.step.eq_fault hstep⟩

/-! ### Allocated slots (R27, R29) -/

theorem State.allocated_allocateTable (s : State) (i : TableIndex) (v : Vpn) :
    (s.allocateTable i).allocated v = (s.allocated v || l1 v == i) :=
  s.slotAllocated_allocateTable i (l1 v)

/-- The numbers of the allocated slots (R29). -/
def allocatedSlotSet (s : State) : Finset Nat :=
  (Finset.range 1024).filter fun k => s.slotAllocated (BitVec.ofNat 10 k) = true

theorem mem_allocatedSlotSet {s : State} {k : Nat} :
    k ∈ allocatedSlotSet s ↔ k < 1024 ∧ s.slotAllocated (BitVec.ofNat 10 k) = true := by
  rw [allocatedSlotSet, Finset.mem_filter, Finset.mem_range]

theorem allocatedSlots_eq_card (s : State) : allocatedSlots s = (allocatedSlotSet s).card := by
  rw [allocatedSlotSet, ← Nat.count_eq_card_filter_range, Nat.count, allocatedSlots]
  simp

theorem allocatedSlots_of_l1a_nil {s : State} (h : s.l1a = []) : allocatedSlots s = 0 := by
  simp [allocatedSlots, State.slotAllocated, h]

theorem allocatedSlotSet_allocateTable (s : State) (i : TableIndex) :
    allocatedSlotSet (s.allocateTable i) = insert i.toNat (allocatedSlotSet s) := by
  ext k
  have hi : i.toNat < 1024 := i.isLt
  have hslot : k < 1024 → (BitVec.ofNat 10 k = i ↔ k = i.toNat) := by
    intro hk
    rw [← BitVec.toNat_inj, BitVec.toNat_ofNat, Nat.mod_eq_of_lt hk]
  simp only [Finset.mem_insert, mem_allocatedSlotSet, State.slotAllocated_allocateTable,
    Bool.or_eq_true, beq_iff_eq]
  grind

/-- Allocating the table of a free slot adds one to the number of allocated slots. -/
theorem allocatedSlots_allocateTable {s : State} {i : TableIndex} (h : s.slotAllocated i = false) :
    allocatedSlots (s.allocateTable i) = allocatedSlots s + 1 := by
  have hnew : i.toNat ∉ allocatedSlotSet s := by simp [mem_allocatedSlotSet, h]
  rw [allocatedSlots_eq_card, allocatedSlotSet_allocateTable, Finset.card_insert_of_notMem hnew,
    allocatedSlots_eq_card]

/-- The count of tables in use is exact again after an allocation, which the pool had room for. -/
theorem TablesCounted.allocateTable {s : State} (h : TablesCounted s) (hr : s.ptReady = true)
    {i : TableIndex} (hfree : s.slotAllocated i = false) (hpool : s.poolUsedUp = false) :
    TablesCounted (s.allocateTable i) := by
  intro _
  obtain ⟨hcount, hle⟩ := h hr
  have hmax := s.cfg.l2Pool_range.2
  have hne : s.l2Used.toNat ≠ s.cfg.l2Pool := by simpa [State.poolUsedUp] using hpool
  rw [allocatedSlots_allocateTable hfree, State.allocateTable_l2Used, State.allocateTable_cfg,
    BitVec.toNat_add]
  have hone : (1 : BitVec 11).toNat = 1 := rfl
  omega

/-! ### The invariants of each sub-block (R34)

`Inv` is a part about the page table and a part about the TLB, and no command touches both. -/

/-- The invariants of the page table: R34 (b) and (c), and the storage's form. -/
structure PageTableInv (s : State) : Prop where
  counted : TablesCounted s
  unused : PteUnusedZero s
  canonical : StorageCanonical s

/-- The invariants of the TLB: its size, R34 (a), and R34 (e) where `CHECK_UNIQUE` asks for it. -/
structure TlbInv (s : State) : Prop where
  capacity : TlbHasCapacity s
  hand : HandInRange s
  unique : s.cfg.checkUnique = true → s.tlbReady = true → ValidVpnsUnique s

theorem inv_iff {s : State} : Inv s ↔ PageTableInv s ∧ TlbInv s :=
  ⟨fun h => ⟨⟨h.counted, h.unused, h.canonical⟩, ⟨h.capacity, h.hand, h.unique⟩⟩,
    fun ⟨hpt, htlb⟩ => ⟨htlb.capacity, htlb.hand, hpt.counted, hpt.unused, hpt.canonical,
      htlb.unique⟩⟩

/-- Writing a PTE whose unused bits are 0 keeps the invariants of the page table. -/
theorem PageTableInv.setPteAt {s : State} (h : PageTableInv s) (v : Vpn) {w : Word32}
    (hw : pteUnused w = 0) : PageTableInv (s.setPteAt v w) where
  counted := h.counted
  unused hr u ha := by
    rw [State.pteAt_setPteAt]
    split
    · exact hw
    · exact h.unused hr u ha
  canonical := Memory.wf_write h.canonical (pteKey_lt v) w

/-- Allocating a table for a free slot keeps the invariants of the page table. -/
theorem PageTableInv.allocateTable {s : State} (h : PageTableInv s) (hr : s.ptReady = true)
    {i : TableIndex} (hfree : s.slotAllocated i = false) (hpool : s.poolUsedUp = false) :
    PageTableInv (s.allocateTable i) where
  counted := h.counted.allocateTable hr hfree hpool
  unused _ u ha := by
    rw [State.pteAt_allocateTable]
    split
    · exact pteUnused_zero
    · next hne =>
      rw [State.allocated_allocateTable] at ha
      exact h.unused hr u (by simpa [hne] using ha)
  canonical := Memory.wf_zeroTable h.canonical i

/-- Every command keeps the invariants of the page table: four effects write to it, no other one does. -/
theorem CommandEffect.pageTableInv {i : Instr} {s t : State} (he : CommandEffect i s t)
    (h : PageTableInv s) : PageTableInv t := by
  cases he with
  | ptInit hr =>
    refine ⟨fun _ => ?_, fun _ _ ha => absurd ha Bool.false_ne_true, h.canonical⟩
    rw [allocatedSlots_of_l1a_nil rfl]
    exact ⟨rfl, Nat.zero_le _⟩
  | @ptUpdateAllocated _ v f hr ha =>
    obtain ⟨hc, hu, hs⟩ := h.setPteAt v (pteUnused_mapping f)
    exact ⟨hc, hu, hs⟩
  | @ptUpdateAllocates _ v f hr hfree hpool =>
    obtain ⟨hc, hu, hs⟩ := (h.allocateTable hr hfree hpool).setPteAt v (pteUnused_mapping f)
    exact ⟨hc, hu, hs⟩
  | @ptClearEntry _ v hr ha =>
    have hw : pteUnused (pteCleared (s.pteAt v)) = 0 := by
      rw [pteUnused_cleared, h.unused hr v ha]
    obtain ⟨hc, hu, hs⟩ := h.setPteAt v hw
    exact ⟨hc, hu, hs⟩
  | _ => exact ⟨h.counted, h.unused, h.canonical⟩

/-! ### What a command does to one entry (R30) -/

/-- All that a command can do to one entry of the TLB. -/
inductive EntryEffect (i : Instr) (e : TlbEntry) : TlbEntry → Prop where
  | kept : EntryEffect i e e
  /-- R141; no claim below needs to know what is loaded. -/
  | loaded (hi : i = .tlbInit) (e' : TlbEntry) : EntryEffect i e e'
  /-- R142. -/
  | touched {v : Vpn} {op : Access} (hi : i = .tlbLookup v op) : EntryEffect i e (e.touched op)
  /-- R174. -/
  | filled {v : Vpn} {f : Pfn} {m r : Bool} (hi : i = .tlbInsert v f m r) :
      EntryEffect i e (.filled v f m r)
  /-- R144, R146. -/
  | invalidated (hi : i = .tlbClearAll ∨ ∃ v, i = .tlbClearEntry v) : EntryEffect i e e.invalidated
  /-- R145. -/
  | unreferenced (hi : i = .tlbClearAllRef) : EntryEffect i e e.unreferenced

/-- An entry after a map over the array: changed, or past the end and as it was. -/
theorem EntryEffect.of_map {i : Instr} {s t : State} {g : TlbEntry → TlbEntry}
    (ht : t.tlb = s.tlb.map g) (hg : ∀ e, EntryEffect i e (g e)) (k : Nat) :
    EntryEffect i (s.entry k) (t.entry k) := by
  by_cases hk : k < s.tlb.length
  · rw [State.entry, State.entry, ht, getD_map_entry, if_pos hk]; exact hg _
  · have hkt : t.tlb.length ≤ k := by rw [ht, List.length_map]; omega
    rw [State.entry_of_ge (by omega), State.entry_of_ge hkt]; exact .kept

/-- Each command changes an entry as its own rule says, or keeps it. -/
theorem CommandEffect.entryEffect {i : Instr} {s t : State} (he : CommandEffect i s t) (k : Nat) :
    EntryEffect i (s.entry k) (t.entry k) := by
  cases he with
  | tlbInit => exact .loaded rfl _
  | @tlbLookupHit _ v op j =>
    rw [State.entry, State.entry, getD_modify_entry]
    split
    · exact .touched rfl
    · exact .kept
  | tlbInsert =>
    rw [State.entry, State.entry, getD_set_entry]
    split
    · exact .filled rfl
    · exact .kept
  | tlbClearAll => exact .of_map rfl (fun _ => .invalidated (.inl rfl)) k
  | tlbClearAllRef => exact .of_map rfl (fun _ => .unreferenced rfl) k
  | @tlbClearEntry _ v =>
    refine .of_map rfl (fun e => ?_) k
    split
    · exact .invalidated (.inr ⟨v, rfl⟩)
    · exact .kept
  | _ => exact .kept

/-- Only TLB_INIT and TLB_INSERT can make an entry hold a VPN that it did not hold. -/
theorem EntryEffect.holds {i : Instr} {e e' : TlbEntry} (h : EntryEffect i e e')
    (hinit : i ≠ .tlbInit) (hinsert : ∀ v f m r, i ≠ .tlbInsert v f m r) {v : Vpn}
    (hv : e'.holds v = true) : e.holds v = true := by
  cases h with
  | kept => exact hv
  | loaded hi => exact absurd hi hinit
  | touched hi => rwa [TlbEntry.touched_holds] at hv
  | filled hi => exact absurd hi (hinsert _ _ _ _)
  | invalidated hi => rw [TlbEntry.invalidated_holds] at hv; cases hv
  | unreferenced hi => rwa [TlbEntry.unreferenced_holds] at hv

/-- No entry of an array of invalidated entries holds a VPN (R141). -/
theorem holds_map_invalidated (l : List TlbEntry) (k : Nat) (v : Vpn) :
    ((l.map TlbEntry.invalidated).getD k ⟨0, 0⟩).holds v = false := by
  rw [getD_map_entry]
  split
  · exact TlbEntry.invalidated_holds ..
  · exact TlbEntry.zero_holds v

/-! ### Every command keeps the invariants of the TLB -/

/-- Filling one entry with a VPN that no other entry holds keeps uniqueness (R173). -/
theorem ValidVpnsUnique.fill {s t : State} (h : ValidVpnsUnique s) {v : Nat} {vpn : Vpn} {pfn : Pfn}
    {m r : Bool} (ht : t.tlb = s.tlb.set v (TlbEntry.filled vpn pfn m r))
    (hfree : ∀ k, k ≠ v → (s.entry k).holds vpn = false) : ValidVpnsUnique t := by
  have hcases : ∀ k u, (t.entry k).holds u = true →
      (k = v ∧ vpn = u) ∨ (k ≠ v ∧ (s.entry k).holds u = true) := by
    intro k u hk
    rw [State.entry, ht, getD_set_entry] at hk
    split at hk
    · next hkv => exact .inl ⟨hkv.1, by simpa using hk⟩
    · next hkv =>
      have hlt : k < s.tlb.length := State.lt_of_holds hk
      exact .inr ⟨fun heq => hkv ⟨heq, hlt⟩, hk⟩
  intro j k u hj hk
  rcases hcases j u hj with ⟨rfl, rfl⟩ | ⟨hjv, hj⟩ <;> rcases hcases k _ hk with ⟨rfl, hu⟩ | ⟨hkv, hk⟩
  · rfl
  · simp [hfree k hkv] at hk
  · subst hu; simp [hfree j hjv] at hj
  · exact h j k u hj hk

/-- The uniqueness check finds every other entry that holds the VPN: the array has its `N` entries. -/
theorem State.not_holds_of_not_heldElsewhere {s : State} (hcap : TlbHasCapacity s) {v : Nat}
    {vpn : Vpn} (h : s.heldElsewhere v vpn = false) {k : Nat} (hk : k ≠ v) :
    (s.entry k).holds vpn = false := by
  by_contra hne
  have hheld : (s.entry k).holds vpn = true := by simpa using hne
  have hlt : k < s.cfg.n := hcap ▸ State.lt_of_holds hheld
  rw [(State.heldElsewhere_iff hcap).2 ⟨k, hlt, hk, hheld⟩] at h
  cases h

/-- A command that is neither TLB_INIT nor TLB_INSERT and keeps the hand and the array's size keeps the
invariants of the TLB. -/
theorem CommandEffect.tlbInv_of_sameShape {i : Instr} {s t : State} (he : CommandEffect i s t)
    (h : TlbInv s) (hinit : i ≠ .tlbInit) (hinsert : ∀ v f m r, i ≠ .tlbInsert v f m r)
    (hcfg : t.cfg = s.cfg) (hready : t.tlbReady = s.tlbReady) (hhand : t.hand = s.hand)
    (hlength : t.tlb.length = s.tlb.length) : TlbInv t where
  capacity := by rw [TlbHasCapacity, hlength, hcfg, h.capacity]
  hand := by rw [HandInRange, hready, hhand, hcfg]; exact h.hand
  unique hcheck hr j k v hj hk :=
    h.unique (hcfg ▸ hcheck) (hready ▸ hr) j k v ((he.entryEffect j).holds hinit hinsert hj)
      ((he.entryEffect k).holds hinit hinsert hk)

/-- Every command keeps the invariants of the TLB. -/
theorem CommandEffect.tlbInv {i : Instr} {s t : State} (he : CommandEffect i s t)
    (h : TlbInv s) : TlbInv t := by
  have hsame := he.tlbInv_of_sameShape h
  cases he with
  | tlbInit hr =>
    refine ⟨?_, fun _ => ?_, fun _ _ j k v hj _ => ?_⟩
    · rw [TlbHasCapacity, List.length_map]; exact s.cfg.contents_length
    · exact s.cfg.n_range.1
    · rw [State.entry, holds_map_invalidated] at hj; cases hj
  | @tlbInsert _ v f m r hr hcheck =>
    refine ⟨?_, fun _ => ?_, fun hc _ => ?_⟩
    · rw [TlbHasCapacity, List.length_set]; exact h.capacity
    · rw [State.handAfter_toNat]; exact Nat.mod_lt _ s.cfg.n_range.1
    · exact (h.unique hc hr).fill rfl fun k =>
        State.not_holds_of_not_heldElsewhere h.capacity (hcheck hc)
  | tlbLookupHit => exact hsame nofun nofun rfl rfl rfl (List.length_modify ..)
  | tlbClearAll | tlbClearAllRef | tlbClearEntry =>
    exact hsame nofun nofun rfl rfl rfl (List.length_map ..)
  | _ => exact ⟨h.capacity, h.hand, h.unique⟩

/-! ### Every step keeps the invariants (R34) -/

theorem CommandEffect.inv {i : Instr} {s t : State} (he : CommandEffect i s t) (h : Inv s) :
    Inv t := by
  obtain ⟨hpt, htlb⟩ := inv_iff.1 h
  exact inv_iff.2 ⟨he.pageTableInv hpt, he.tlbInv htlb⟩

/-- The invariants speak of neither the driver's sequence nor the fault code. -/
theorem Inv.withInputAndFault {s : State} (h : Inv s) (ws : List Word64) (c : FaultCode) :
    Inv { s with input := ws, fault := c } :=
  ⟨h.capacity, h.hand, h.counted, h.unused, h.canonical, h.unique⟩

/-- Settles O43: an idle step keeps the state, an illegal word records its fault, and a command keeps the
invariants of both sub-blocks. -/
theorem stepKeepsTheInvariants : Obligations.StepKeepsTheInvariants := by
  intro s t h hstep
  rcases step_effect hstep with rfl | ⟨w, rest, -, rfl | ⟨i, -, he⟩⟩
  · exact h
  · exact h.withInputAndFault rest .illegalCommand
  · exact he.inv (h.withInputAndFault rest s.fault)

/-- Before the initialisations only the array's size and the storage's form are claimed. -/
theorem IsReset.inv {cfg : Config} {s : State} (h : IsReset cfg s) (hs : StorageCanonical s) :
    Inv s where
  capacity := h.tlbLength.trans (congrArg Config.n h.sameCfg.symm)
  hand hr := absurd hr (by simp [h.tlbReady])
  counted hr := absurd hr (by simp [h.ptReady])
  unused hr := absurd hr (by simp [h.ptReady])
  canonical := hs
  unique _ hr := absurd hr (by simp [h.tlbReady])

/-- Settles O44: the model's own reset state is a power-on state whose storage is canonical. -/
theorem resetMeetsTheInvariants : Obligations.ResetMeetsTheInvariants :=
  ⟨fun _ _ => IsReset.inv, fun cfg => (State.resetOf_isReset cfg).inv (State.resetOf_pte_wf cfg)⟩

/-- Settles O45, by induction on the number of steps: the invariants hold at reset, whatever words are
placed in the driver's sequence, and every step keeps them. -/
theorem everyRunFromResetMeetsTheInvariants : Obligations.EveryRunFromResetMeetsTheInvariants := by
  intro cfg s t ws k hreset hcanonical hrun
  have hstart : Inv { s with input := ws } := (hreset.inv hcanonical).withInputAndFault ws s.fault
  exact run_keeps (M := Sys2Proof.core) stepKeepsTheInvariants hstart hrun

/-! ### The unused bits of the entries (R34 (d)) -/

theorem EntryEffect.unusedZero {i : Instr} {e e' : TlbEntry} (h : EntryEffect i e e')
    (hinit : i ≠ .tlbInit) (he : e.unused1 = 0 ∧ e.unused2 = 0) : e'.unused1 = 0 ∧ e'.unused2 = 0 := by
  cases h with
  | kept => exact he
  | loaded hi => exact absurd hi hinit
  | touched hi => rwa [TlbEntry.touched_unused1, TlbEntry.touched_unused2]
  | filled hi => exact ⟨TlbEntry.filled_unused1 .., TlbEntry.filled_unused2 ..⟩
  | invalidated hi => rwa [TlbEntry.invalidated_unused1, TlbEntry.invalidated_unused2]
  | unreferenced hi => rwa [TlbEntry.unreferenced_unused1, TlbEntry.unreferenced_unused2]

/-- The victim is an entry of the array: the scan ends within it, and the hand stands in it. -/
theorem IsVictim.lt {s : State} {v : Nat} (hv : IsVictim s v) (hr : s.tlbReady = true)
    (hhand : HandInRange s) : v < s.cfg.n := by
  rcases hv with ⟨-, hlt, -⟩ | ⟨rfl, -⟩
  · exact hlt
  · exact hhand hr

/-- An insertion that does not fault leaves the filled entry at its victim (R174). -/
theorem CommandEffect.entry_victim_of_insert {s t : State} {vpn : Vpn} {pfn : Pfn} {m r : Bool}
    (he : CommandEffect (.tlbInsert vpn pfn m r) s t) (ht : t.fault = .none) {v : Nat}
    (hcap : TlbHasCapacity s) (hv : IsVictim s v) (hlt : v < s.cfg.n) :
    t.entry v = TlbEntry.filled vpn pfn m r := by
  have hvictim : v = s.victim := hv.unique (State.victim_isVictim hcap)
  subst hvictim
  cases he with
  | faults c hc => exact absurd ht hc
  | tlbInsert =>
    have hlen : s.victim < s.tlb.length := hcap.symm ▸ hlt
    rw [State.entry, getD_set_entry, if_pos ⟨rfl, hlen⟩]

/-- Settles O46: the filled entry has its unused bits 0, and no change of an entry but the loading by
TLB_INIT sets one. -/
theorem unusedEntryBitsStayZero : Obligations.UnusedEntryBitsStayZero := by
  refine ⟨fun s t vpn pfn m r v hr hcap hhand hv hexec ht => ?_, fun i s t k hi hexec hk => ?_⟩
  · have hfilled := (exec_effect hexec).entry_victim_of_insert ht hcap hv (hv.lt hr hhand)
    rw [EntryUnusedZero, hfilled]
    exact ⟨TlbEntry.filled_unused1 .., TlbEntry.filled_unused2 ..⟩
  · exact ((exec_effect hexec).entryEffect k).unusedZero hi hk

/-! ### The writers of each piece of state (R22, R32)

One lemma for each row of the table: a command that changes the piece is one the row names. -/

section Writers

variable {i : Instr} {s t : State} (he : CommandEffect i s t)
include he

theorem CommandEffect.cfg_eq : t.cfg = s.cfg := by
  cases he <;> rfl

theorem CommandEffect.input_eq : t.input = s.input := by
  cases he <;> rfl

theorem CommandEffect.writer_ptReady (h : t.ptReady ≠ s.ptReady) : i = .ptInit := by
  cases he with
  | ptInit => rfl
  | _ => exact absurd rfl h

theorem CommandEffect.writer_l1a (h : t.l1a ≠ s.l1a) : i = .ptInit ∨ ∃ v f, i = .ptUpdate v f := by
  cases he with
  | ptInit => exact .inl rfl
  | ptUpdateAllocates => exact .inr ⟨_, _, rfl⟩
  | _ => exact absurd rfl h

theorem CommandEffect.writer_pte (h : t.pte ≠ s.pte) :
    (∃ v f, i = .ptUpdate v f) ∨ ∃ v, i = .ptClearEntry v := by
  cases he with
  | ptUpdateAllocated | ptUpdateAllocates => exact .inl ⟨_, _, rfl⟩
  | ptClearEntry => exact .inr ⟨_, rfl⟩
  | _ => exact absurd rfl h

theorem CommandEffect.writer_l2Used (h : t.l2Used ≠ s.l2Used) :
    i = .ptInit ∨ ∃ v f, i = .ptUpdate v f := by
  cases he with
  | ptInit => exact .inl rfl
  | ptUpdateAllocates => exact .inr ⟨_, _, rfl⟩
  | _ => exact absurd rfl h

theorem CommandEffect.writer_pageFault (h : t.pageFault ≠ s.pageFault) :
    ∃ v, i = .ptGetFrame v := by
  cases he with
  | ptGetFrameFound | ptGetFrameAbsent => exact ⟨_, rfl⟩
  | _ => exact absurd rfl h

theorem CommandEffect.writer_tlbReady (h : t.tlbReady ≠ s.tlbReady) : i = .tlbInit := by
  cases he with
  | tlbInit => rfl
  | _ => exact absurd rfl h

theorem CommandEffect.writer_tlbMiss (h : t.tlbMiss ≠ s.tlbMiss) : ∃ v op, i = .tlbLookup v op := by
  cases he with
  | tlbLookupHit | tlbLookupMiss => exact ⟨_, _, rfl⟩
  | _ => exact absurd rfl h

theorem CommandEffect.writer_hand (h : t.hand ≠ s.hand) :
    i = .tlbInit ∨ ∃ v f m r, i = .tlbInsert v f m r := by
  cases he with
  | tlbInit => exact .inl rfl
  | tlbInsert => exact .inr ⟨_, _, _, _, rfl⟩
  | _ => exact absurd rfl h

end Writers

/-- A lookup and TLB_CLEAR_ALL_REF keep `W1`. -/
theorem EntryEffect.writer_w1 {i : Instr} {e e' : TlbEntry} (h : EntryEffect i e e')
    (hw : e'.w1 ≠ e.w1) :
    i = .tlbInit ∨ i = .tlbClearAll ∨ (∃ v, i = .tlbClearEntry v) ∨
      ∃ v f m r, i = .tlbInsert v f m r := by
  cases h with
  | loaded hi => exact .inl hi
  | filled hi => exact .inr (.inr (.inr ⟨_, _, _, _, hi⟩))
  | invalidated hi => exact .inr (hi.imp_right .inl)
  | kept | touched | unreferenced => exact absurd rfl hw

/-- The clearing of valid bits keeps `W2`. -/
theorem EntryEffect.writer_w2 {i : Instr} {e e' : TlbEntry} (h : EntryEffect i e e')
    (hw : e'.w2 ≠ e.w2) :
    i = .tlbInit ∨ i = .tlbClearAllRef ∨ (∃ v op, i = .tlbLookup v op) ∨
      ∃ v f m r, i = .tlbInsert v f m r := by
  cases h with
  | loaded hi => exact .inl hi
  | unreferenced hi => exact .inr (.inl hi)
  | touched hi => exact .inr (.inr (.inl ⟨_, _, hi⟩))
  | filled hi => exact .inr (.inr (.inr ⟨_, _, _, _, hi⟩))
  | kept | invalidated => exact absurd rfl hw

/-- Settles O47, row by row of the state table. -/
theorem stateChangesOnlyByItsWriters : Obligations.StateChangesOnlyByItsWriters := by
  intro i s t hexec
  have he := exec_effect hexec
  exact ⟨he.cfg_eq, he.input_eq, he.writer_ptReady, he.writer_l1a, he.writer_pte, he.writer_l2Used,
    he.writer_pageFault, he.writer_tlbReady, fun ⟨k, hk⟩ => (he.entryEffect k).writer_w1 hk,
    fun ⟨k, hk⟩ => (he.entryEffect k).writer_w2 hk, he.writer_tlbMiss, he.writer_hand⟩

end Sys2Proof.Machine
end

section
/-! PROOFS of the statements of `20_memory.md`: the split of a VPN (R55), the commands that change nothing
more when repeated (R58), and the words of commands issued one after another (R64). -/

namespace Sys2Proof

/-! ### Changing an entry twice (R144, R145, R146) -/

/-- A mask clears nothing more the second time. -/
theorem and_mask_and_mask (w mask : Word32) : w &&& mask &&& mask = w &&& mask := by
  rw [BitVec.and_assoc, BitVec.and_self]

theorem TlbEntry.invalidated_invalidated (e : TlbEntry) : e.invalidated.invalidated = e.invalidated := by
  simp only [TlbEntry.invalidated, and_mask_and_mask]

theorem TlbEntry.unreferenced_unreferenced (e : TlbEntry) :
    e.unreferenced.unreferenced = e.unreferenced := by
  simp only [TlbEntry.unreferenced, and_mask_and_mask]

/-- R and M are sticky: a second hit of the same kind sets no further bit (R142). -/
theorem TlbEntry.touched_touched (op : Access) (e : TlbEntry) :
    (e.touched op).touched op = e.touched op := by
  simp only [TlbEntry.touched, BitVec.or_assoc, BitVec.or_self]

/-- What TLB_CLEAR_ENTRY leaves of an entry: one that names the VPN is cleared, any other is kept (R146). -/
def TlbEntry.clearedFor (v : Vpn) (e : TlbEntry) : TlbEntry :=
  if e.namesVpn v then e.invalidated else e

theorem TlbEntry.clearedFor_eq (v : Vpn) :
    TlbEntry.clearedFor v = fun e => if e.namesVpn v then e.invalidated else e := rfl

/-- An entry cleared for a VPN is cleared for it already. -/
theorem TlbEntry.clearedFor_clearedFor (v : Vpn) (e : TlbEntry) :
    (e.clearedFor v).clearedFor v = e.clearedFor v := by
  by_cases h : e.namesVpn v = true
  · rw [TlbEntry.clearedFor, TlbEntry.clearedFor, if_pos h, TlbEntry.invalidated_invalidated, ite_self]
  · rw [TlbEntry.clearedFor, TlbEntry.clearedFor, if_neg h, if_neg h]

end Sys2Proof

namespace Sys2Proof.Machine

/-! ### The index split (R55) -/

/-- The first-level index is the VPN shifted right by 10: no bit above its 10 remains. -/
theorem l1_toNat (v : Vpn) : (l1 v).toNat = v.toNat >>> 10 := by
  have hv : v.toNat < 2 ^ 20 := v.isLt
  have hshift : v.toNat >>> 10 < 2 ^ 10 := by rw [Nat.shiftRight_eq_div_pow]; omega
  rw [l1, BitVec.extractLsb'_toNat, Nat.mod_eq_of_lt hshift]

/-- The second-level index is the VPN under the mask of 10 ones. -/
theorem l2_toNat (v : Vpn) : (l2 v).toNat = v.toNat &&& 0x3FF := by
  rw [l2, BitVec.extractLsb'_toNat, Nat.shiftRight_zero]
  exact (Nat.and_two_pow_sub_one_eq_mod v.toNat 10).symm

/-- The two indices, side by side, are the whole VPN. -/
theorem vpnOf_l1_l2 (v : Vpn) : vpnOf (l1 v) (l2 v) = v := by
  have hjoin : vpnOf (l1 v) (l2 v) = v.extractLsb' 0 20 :=
    BitVec.extractLsb'_append_extractLsb'_eq_extractLsb' rfl
  rw [hjoin, BitVec.extractLsb'_eq_self]

/-- Settles O5: the indices are the two halves of the VPN, as numbers and side by side. -/
theorem indexSplitIsShiftAndMask : Obligations.IndexSplitIsShiftAndMask := fun v =>
  ⟨rfl, rfl, l1_toNat v, l2_toNat v, Nat.le_of_lt_succ (l1 v).isLt, Nat.le_of_lt_succ (l2 v).isLt,
    vpnOf_l1_l2 v⟩

/-! ### Repeating a write (R56, R58) -/

/-- A pair put at its place is dropped again with its key. -/
theorem Memory.erase_place (m : Memory) (a : Nat) (w : Word32) : (m.place a w).erase a = m.erase a := by
  induction m with
  | nil => simp [Memory.place, Memory.erase]
  | cons c m ih =>
    obtain ⟨b, x⟩ := c
    by_cases hb : b < a
    · have hne : b ≠ a := by omega
      rw [Memory.erase] at ih
      simp [Memory.place, hb, Memory.erase, hne, ih]
    · simp [Memory.place, hb, Memory.erase]

/-- A write drops the old pair of its key, so writing the word again gives the same storage. -/
theorem Memory.write_write (m : Memory) (a : Nat) (w : Word32) :
    (m.write a w).write a w = m.write a w := by
  have herase : (m.erase a).erase a = m.erase a := by simp [Memory.erase]
  by_cases hw : w = unlistedPte
  · rw [Memory.write, Memory.write, if_pos hw, if_pos hw, herase]
  · rw [Memory.write, Memory.write, if_neg hw, if_neg hw, Memory.erase_place, herase]

/-- A word written where it was written last changes nothing. -/
theorem State.setPteAt_of_written {t : State} {m : Memory} {v : Vpn} {w : Word32}
    (h : t.pte = m.write (pteKey v) w) : t.setPteAt v w = t := by
  have hpte : t.pte.write (pteKey v) w = t.pte := by rw [h, Memory.write_write]
  rw [State.setPteAt, hpte]

theorem State.pteAt_of_written {t : State} {m : Memory} {v : Vpn} {w : Word32}
    (h : t.pte = m.write (pteKey v) w) : t.pteAt v = w := by
  rw [State.pteAt, h, Memory.read_write, if_pos rfl]

theorem pteCleared_pteCleared (w : Word32) : pteCleared (pteCleared w) = pteCleared w :=
  and_mask_and_mask w _

/-- Clearing the present bit where it was cleared last changes nothing. -/
theorem State.setPteAt_of_cleared {t : State} {m : Memory} {v : Vpn} {w : Word32}
    (h : t.pte = m.write (pteKey v) (pteCleared w)) : t.setPteAt v (pteCleared (t.pteAt v)) = t := by
  rw [State.pteAt_of_written h, pteCleared_pteCleared, State.setPteAt_of_written h]

/-! ### Repeating a change of the TLB array (R58) -/

theorem map_map_of_idempotent {g : TlbEntry → TlbEntry} (hg : ∀ e, g (g e) = g e)
    (l : List TlbEntry) : (l.map g).map g = l.map g := by
  rw [List.map_map]
  exact List.map_congr_left fun e _ => hg e

theorem modify_modify_of_idempotent {g : TlbEntry → TlbEntry} (hg : ∀ e, g (g e) = g e)
    (l : List TlbEntry) (k : Nat) : (l.modify k g).modify k g = l.modify k g := by
  rw [List.modify_modify_eq]
  congr 1
  exact funext hg

/-! ### A hit, looked up again (R142) -/

/-- Every entry after a hit on entry `k`. -/
theorem State.entry_of_touched {s t : State} {k : Nat} {op : Access}
    (h : t.tlb = s.tlb.modify k (TlbEntry.touched op)) (j : Nat) :
    t.entry j = if j = k ∧ j < s.tlb.length then (s.entry j).touched op else s.entry j := by
  rw [State.entry, h, getD_modify_entry]
  rfl

/-- A hit sets bits that no lookup compares, so the same entry is found again. -/
theorem State.tlbFind_of_touched {s t : State} {k : Nat} {op : Access} {v : Vpn}
    (h : t.tlb = s.tlb.modify k (TlbEntry.touched op)) (hk : s.tlbFind v = some k) :
    t.tlbFind v = some k := by
  have hholds : ∀ j, (t.entry j).holds v = (s.entry j).holds v := fun j => by
    rw [State.entry_of_touched h, apply_ite (TlbEntry.holds v), TlbEntry.touched_holds, ite_self]
  simpa only [State.tlbFind_eq_some, hholds] using hk

/-- A hit leaves the frame it answered. -/
theorem State.entry_pfn_of_touched {s t : State} {k : Nat} {op : Access}
    (h : t.tlb = s.tlb.modify k (TlbEntry.touched op)) (j : Nat) :
    (t.entry j).pfn = (s.entry j).pfn := by
  rw [State.entry_of_touched h, apply_ite TlbEntry.pfn, TlbEntry.touched_pfn, ite_self]

/-! ### A command does its effect -/

/-- Only a running engine has an effect that records no fault (R223). -/
theorem CommandEffect.running {i : Instr} {s t : State} (he : CommandEffect i s t)
    (hf : t.fault = .none) : s.fault = .none := by
  cases he with
  | faults c hc => exact absurd hf hc
  | _ => exact hf

/-- The effect of a command that records no fault is what the command does: the converse of
`exec_effect`. -/
theorem exec_of_effect {i : Instr} {s t : State} (he : CommandEffect i s t) (hf : t.fault = .none) :
    exec i s = .next t := by
  have hs := he.running hf
  cases he with
  | faults c hc => exact absurd hf hc
  | ptInit h => exact (unlessHalted_of_running hs _).trans (by rw [h]; rfl)
  | ptGetFrameFound f hr h => exact (ptCommand_of_ready hs hr _).trans (by rw [h]; rfl)
  | ptGetFrameAbsent hr h => exact (ptCommand_of_ready hs hr _).trans (by rw [h]; rfl)
  | ptUpdateAllocated hr h => exact (ptCommand_of_ready hs hr _).trans (by rw [h]; rfl)
  | ptUpdateAllocates hr h hp => exact (ptCommand_of_ready hs hr _).trans (by rw [h, hp]; rfl)
  | ptClearEntry hr h => exact (ptCommand_of_ready hs hr _).trans (by rw [h]; rfl)
  | ptClearEntryNothing hr h => exact (ptCommand_of_ready hs hr _).trans (by rw [h]; rfl)
  | ptReadPte hr => exact ptCommand_of_ready hs hr _
  | tlbInit h => exact (unlessHalted_of_running hs _).trans (by rw [h]; rfl)
  | tlbLookupHit k hr h => exact (tlbCommand_of_ready hs hr _).trans (by rw [h]; rfl)
  | tlbLookupMiss hr h => exact (tlbCommand_of_ready hs hr _).trans (by rw [h]; rfl)
  | @tlbInsert _ v _ _ _ hr h =>
    have hcheck : (s.cfg.checkUnique && s.heldElsewhere s.victim v) = false := by simpa using h
    exact (tlbCommand_of_ready hs hr _).trans (by rw [hcheck]; rfl)
  | tlbClearAll hr => exact tlbCommand_of_ready hs hr _
  | tlbClearAllRef hr => exact tlbCommand_of_ready hs hr _
  | tlbClearEntry hr => exact tlbCommand_of_ready hs hr _
  | tlbWriteBack hr => exact tlbCommand_of_ready hs hr _
  | tlbReadEntry hr h => exact (tlbCommand_of_ready hs hr _).trans (if_neg (Nat.not_le.2 h))
  | tlbReadHand hr => exact tlbCommand_of_ready hs hr _

/-! ### The commands that change nothing more when repeated (R58, R113)

Each effect is shown to be an effect of the state it leads to, with the same response, that leads to no
other state but for the response; `exec_of_effect` makes it a run of the command. -/

/-- What R58 says of a command that has led from `s` to `t`: repeated at once it answers again, the state
and the events stay as they are, and so does the response where no draw was made. -/
def RepeatChangesNothing (i : Instr) (s t : State) : Prop :=
  ∃ u, exec i t = .next u ∧ u = { t with responses := u.responses, draws := u.draws } ∧
    (t.draws = s.draws →
      ∃ r, t.responses = s.responses ++ [r] ∧ u.responses = t.responses ++ [r])

/-- A repetition that answers as the command did. -/
theorem repeatChangesNothing_of_answer {i : Instr} {s t : State} {r : Response}
    (hf : t.fault = .none) (hr : t.responses = s.responses ++ [r])
    (he : CommandEffect i t { t with responses := t.responses ++ [r] }) :
    RepeatChangesNothing i s t :=
  ⟨_, exec_of_effect he hf, rfl, fun _ => ⟨r, hr, rfl⟩⟩

/-- A repetition of a command that drew: it draws again. -/
theorem repeatChangesNothing_of_draw {i : Instr} {s t : State} (hf : t.fault = .none)
    (hd : t.draws = s.draws + 1)
    (he : CommandEffect i t { t with
      draws := t.draws + 1, responses := t.responses ++ [.word (respAbsent t.drawn)] }) :
    RepeatChangesNothing i s t :=
  ⟨_, exec_of_effect he hf, rfl, fun hsame => by omega⟩

/-! Each effect that writes a table or the TLB array, where what it writes stands there already. -/

section Unchanged

variable {t : State}

theorem CommandEffect.ptUpdate_unchanged {v : Vpn} {f : Pfn} (hr : t.ptReady = true)
    (ha : t.allocated v = true) (h : t.setPteAt v (pteMapping f) = t) :
    CommandEffect (.ptUpdate v f) t { t with responses := t.responses ++ [.respNone] } := by
  simpa only [h] using CommandEffect.ptUpdateAllocated (f := f) hr ha

theorem CommandEffect.ptClearEntry_unchanged {v : Vpn} (hr : t.ptReady = true)
    (ha : t.allocated v = true) (h : t.setPteAt v (pteCleared (t.pteAt v)) = t) :
    CommandEffect (.ptClearEntry v) t { t with responses := t.responses ++ [.respNone] } := by
  simpa only [h] using CommandEffect.ptClearEntry hr ha

theorem CommandEffect.tlbLookup_unchanged {v : Vpn} {op : Access} {k : Nat} {p : Pfn}
    (hr : t.tlbReady = true) (hk : t.tlbFind v = some k) (hm : t.tlbMiss = some false)
    (h : t.tlb.modify k (TlbEntry.touched op) = t.tlb) (hp : (t.entry k).pfn = p) :
    CommandEffect (.tlbLookup v op) t
      { t with responses := t.responses ++ [.word (respFound p)] } := by
  simpa only [h, hp, ← hm] using CommandEffect.tlbLookupHit (op := op) k hr hk

theorem CommandEffect.tlbClearAll_unchanged (hr : t.tlbReady = true)
    (h : t.tlb.map TlbEntry.invalidated = t.tlb) :
    CommandEffect .tlbClearAll t { t with responses := t.responses ++ [.respNone] } := by
  simpa only [h] using CommandEffect.tlbClearAll hr

theorem CommandEffect.tlbClearAllRef_unchanged (hr : t.tlbReady = true)
    (h : t.tlb.map TlbEntry.unreferenced = t.tlb) :
    CommandEffect .tlbClearAllRef t { t with responses := t.responses ++ [.respNone] } := by
  simpa only [h] using CommandEffect.tlbClearAllRef hr

theorem CommandEffect.tlbClearEntry_unchanged {v : Vpn} (hr : t.tlbReady = true)
    (h : t.tlb.map (TlbEntry.clearedFor v) = t.tlb) :
    CommandEffect (.tlbClearEntry v) t { t with responses := t.responses ++ [.respNone] } := by
  have he := CommandEffect.tlbClearEntry (v := v) hr
  rwa [← TlbEntry.clearedFor_eq, h] at he

end Unchanged

/-- Settles O49, by the ways each command of the list can end without a fault. -/
theorem repeatedCommandChangesNothingMore : Obligations.RepeatedCommandChangesNothingMore := by
  intro i s t hi hexec hf
  show RepeatChangesNothing i s t
  cases exec_effect hexec with
  | faults c hc => exact absurd hf hc
  | ptGetFrameFound f hr h => exact repeatChangesNothing_of_answer hf rfl (.ptGetFrameFound f hr h)
  | ptGetFrameAbsent hr h => exact repeatChangesNothing_of_draw hf rfl (.ptGetFrameAbsent hr h)
  | ptUpdateAllocated hr ha =>
    exact repeatChangesNothing_of_answer hf rfl
      (.ptUpdate_unchanged hr ha (State.setPteAt_of_written rfl))
  | @ptUpdateAllocates _ v _ hr ha hp =>
    have hnow : (s.allocateTable (l1 v)).allocated v = true := by simp [State.allocated_allocateTable]
    exact repeatChangesNothing_of_answer hf rfl
      (.ptUpdate_unchanged hr hnow (State.setPteAt_of_written rfl))
  | ptClearEntry hr ha =>
    exact repeatChangesNothing_of_answer hf rfl
      (.ptClearEntry_unchanged hr ha (State.setPteAt_of_cleared rfl))
  | ptClearEntryNothing hr ha =>
    exact repeatChangesNothing_of_answer hf rfl (.ptClearEntryNothing hr ha)
  | ptReadPte hr => exact repeatChangesNothing_of_answer hf rfl (.ptReadPte hr)
  | tlbLookupHit k hr hk =>
    exact repeatChangesNothing_of_answer hf rfl
      (.tlbLookup_unchanged hr (State.tlbFind_of_touched rfl hk) rfl
        (modify_modify_of_idempotent (TlbEntry.touched_touched _) s.tlb k)
        (State.entry_pfn_of_touched rfl k))
  | tlbLookupMiss hr h => exact repeatChangesNothing_of_draw hf rfl (.tlbLookupMiss hr h)
  | tlbClearAll hr =>
    exact repeatChangesNothing_of_answer hf rfl
      (.tlbClearAll_unchanged hr (map_map_of_idempotent TlbEntry.invalidated_invalidated s.tlb))
  | tlbClearAllRef hr =>
    exact repeatChangesNothing_of_answer hf rfl
      (.tlbClearAllRef_unchanged hr (map_map_of_idempotent TlbEntry.unreferenced_unreferenced s.tlb))
  | tlbClearEntry hr =>
    exact repeatChangesNothing_of_answer hf rfl
      (.tlbClearEntry_unchanged hr (map_map_of_idempotent (TlbEntry.clearedFor_clearedFor _) s.tlb))
  | tlbReadEntry hr hk => exact repeatChangesNothing_of_answer hf rfl (.tlbReadEntry hr hk)
  | tlbReadHand hr => exact repeatChangesNothing_of_answer hf rfl (.tlbReadHand hr)
  | ptInit | tlbInit | tlbInsert | tlbWriteBack => simp at hi

/-! ### The word of a command (R80, R82, R86) -/

/-- The word of every command meets the row of its opcode, and no other row (R83). -/
theorem ownRowOnly (i : Instr) : Laws.OwnRowOnly.Statement i := by
  cases i with
  | ptInit => exact Laws.OwnRowOnly.ptInit
  | ptGetFrame v => exact Laws.OwnRowOnly.ptGetFrame v
  | ptUpdate v f => exact Laws.OwnRowOnly.ptUpdate v f
  | ptClearEntry v => exact Laws.OwnRowOnly.ptClearEntry v
  | tlbInit => exact Laws.OwnRowOnly.tlbInit
  | tlbLookup v op => exact Laws.OwnRowOnly.tlbLookup v op
  | tlbInsert v f m r => exact Laws.OwnRowOnly.tlbInsert v f m r
  | tlbClearAll => exact Laws.OwnRowOnly.tlbClearAll
  | tlbClearAllRef => exact Laws.OwnRowOnly.tlbClearAllRef
  | tlbClearEntry v => exact Laws.OwnRowOnly.tlbClearEntry v
  | tlbWriteBack => exact Laws.OwnRowOnly.tlbWriteBack
  | ptReadPte v => exact Laws.OwnRowOnly.ptReadPte v
  | tlbReadEntry k => exact Laws.OwnRowOnly.tlbReadEntry k
  | tlbReadHand => exact Laws.OwnRowOnly.tlbReadHand

/-- The operand fields of a command's word, read under its opcode, give the command back. -/
theorem commandOf_encode (i : Instr) : commandOf (opcodeOf i).toNat (encode i) = some i := by
  cases i <;> simp [opcodeOf, commandOf, encode]

/-- The word of a command decodes to it: its own row accepts it, and its fields are the operands. -/
theorem decode_encode (i : Instr) : decode (encode i) = .ok i := by
  obtain ⟨⟨row, hrow, haccepts⟩, -⟩ := ownRowOnly i
  simp only [decode, fieldOp_encode, hrow, commandOf_encode, haccepts, if_true]

/-! ### The words not yet taken (R64) -/

/-- `s` with the driver's words not yet taken replaced. -/
def State.withInput (s : State) (ws : List Word64) : State := { s with input := ws }

theorem commutesWithEnds_withInput (ws : List Word64) :
    CommutesWithEnds fun t => t.withInput ws :=
  ⟨fun _ => rfl, fun _ _ => rfl, fun _ => rfl, fun _ _ => rfl⟩

/-- No command sees the words that wait behind it (R64): with other words waiting it ends in the same way.
Only the commands that make a choice of their own have more than a guard to pass. -/
theorem exec_withInput (i : Instr) (s : State) (ws : List Word64) :
    exec i (s.withInput ws) = mapNext (fun t => t.withInput ws) (exec i s) := by
  have hg := commutesWithEnds_withInput ws
  cases i with
  | ptInit => exact hg.unlessHalted (ite_eq_mapNext rfl rfl)
  | ptGetFrame v =>
    have hread : (s.withInput ws).ptTranslate v = s.ptTranslate v := rfl
    refine hg.ptCommand rfl ?_
    rw [hread]
    cases s.ptTranslate v with
    | some f => rfl
    | none => rfl
  | ptUpdate v f => exact hg.ptCommand rfl (ite_eq_mapNext rfl (ite_eq_mapNext rfl rfl))
  | ptClearEntry v =>
    have hread : (s.withInput ws).allocated v = s.allocated v := rfl
    refine hg.ptCommand rfl ?_
    rw [hread]
    cases s.allocated v with
    | true => rfl
    | false => rfl
  | tlbInit => exact hg.unlessHalted (ite_eq_mapNext rfl rfl)
  | tlbLookup v op =>
    have hread : (s.withInput ws).tlbFind v = s.tlbFind v := rfl
    refine hg.tlbCommand rfl ?_
    rw [hread]
    cases s.tlbFind v with
    | some k => rfl
    | none => rfl
  | tlbInsert v f m r => exact hg.tlbCommand rfl (ite_eq_mapNext rfl rfl)
  | tlbClearAll => exact hg.tlbCommand rfl rfl
  | tlbClearAllRef => exact hg.tlbCommand rfl rfl
  | tlbClearEntry v => exact hg.tlbCommand rfl rfl
  | tlbWriteBack => exact hg.tlbCommand rfl rfl
  | ptReadPte v => exact hg.ptCommand rfl rfl
  | tlbReadEntry k => exact hg.tlbCommand rfl (ite_eq_mapNext rfl rfl)
  | tlbReadHand => exact hg.tlbCommand rfl rfl

/-- A step that takes a command's word is the command, with the later words waiting (R7, R64). -/
theorem step_withInput_encode (i : Instr) (ws : List Word64) (s : State) :
    step (s.withInput (encode i :: ws)) = exec i (s.withInput ws) :=
  stepRunsTheDecodedCommand _ (encode i) ws i rfl (decode_encode i)

/-- A run goes on from the state its first step answers. -/
theorem run_succ_of_next {M : Host.Core} {k : Nat} {s t : M.State} (h : M.step s = .next t) :
    M.run (k + 1) s = M.run k t := by
  rw [Host.Core.run, h]

/-- A run stops where its first step stops. -/
theorem run_succ_of_fault {M : Host.Core} {k : Nat} {s : M.State} {x : M.Fault}
    (h : M.step s = .fault x) : M.run (k + 1) s = .fault x := by
  rw [Host.Core.run, h]

theorem run_succ_of_refused {M : Host.Core} {k : Nat} {s : M.State} {x : M.Refusal}
    (h : M.step s = .refused x) : M.run (k + 1) s = .refused x := by
  rw [Host.Core.run, h]

/-- The words of a sequence of commands run as the sequence does: a command leaves the later words as they
are, so the next step finds the next command's word. -/
theorem run_withInput_encode (is : List Instr) (rest : List Word64) (s : State) :
    Host.Core.run core is.length (s.withInput (is.map encode ++ rest)) =
      runCommands is (s.withInput rest) := by
  induction is generalizing s with
  | nil => rfl
  | cons i is ih =>
    have hstep : step (s.withInput ((i :: is).map encode ++ rest)) =
        mapNext (fun t => t.withInput (is.map encode ++ rest)) (exec i s) :=
      (step_withInput_encode i _ s).trans (exec_withInput i s _)
    rw [runCommands, exec_withInput]
    cases hexec : exec i s with
    | next t =>
      rw [hexec] at hstep
      exact (run_succ_of_next hstep).trans (ih t)
    | fault x =>
      rw [hexec] at hstep
      exact run_succ_of_fault hstep
    | refused x =>
      rw [hexec] at hstep
      exact run_succ_of_refused hstep

/-- Settles O11, by induction on the commands: no command sees or changes the words behind its own. -/
theorem issuedCommandsTakeEffectInOrder : Obligations.IssuedCommandsTakeEffectInOrder :=
  run_withInput_encode

end Sys2Proof.Machine
end

section
/-! PROOFS of the statements of `30_encoding.md`: the round trip of command words (R80 to R87), the illegal
words (R83), the response and event words (R84, R85), and the lines of the assembler (R88, R89). -/

namespace Sys2Proof

/-! ### A field of a word, bit by bit -/

/-- The low field of a word is `x` when its bits are those of `x`. -/
theorem extractLsb'_eq_of_bits {w n : Nat} {u : BitVec w} {x : BitVec n}
    (h : ∀ k < n, u.getLsbD k = x.getLsbD k) : u.extractLsb' 0 n = x := by
  apply BitVec.eq_of_getLsbD_eq
  intro k hk
  simp [hk, h k hk]

/-- A field is 0 when each of its bits is. -/
theorem extractLsb'_eq_zero_of_bits {w : Nat} {u : BitVec w} {start len : Nat}
    (h : ∀ k, start ≤ k → k < start + len → u.getLsbD k = false) : u.extractLsb' start len = 0 := by
  apply BitVec.eq_of_getLsbD_eq
  intro k hk
  simp [hk, h (start + k) (by omega) (by omega)]

/-- Two words with the same field have the same bits there. -/
theorem getLsbD_eq_of_extractLsb'_eq {w : Nat} {u₁ u₂ : BitVec w} {start len k : Nat}
    (h : u₁.extractLsb' start len = u₂.extractLsb' start len) (hlo : start ≤ k)
    (hhi : k < start + len) : u₁.getLsbD k = u₂.getLsbD k := by
  have hbit := congrArg (fun x => x.getLsbD (k - start)) h
  have hin : k - start < len := by omega
  simpa [hin, Nat.add_sub_cancel' hlo] using hbit

/-! ### What the decoder answers (R82, R83, R86) -/

/-- A word is a command when its opcode's row accepts it, and its operands are its fields. -/
theorem decode_eq_ok_iff {w : Word64} {i : Instr} :
    decode w = .ok i ↔ ∃ row, opcodeTable[(fieldOp w).toNat]? = some row ∧
      commandOf (fieldOp w).toNat w = some i ∧ row.accepts w = true := by
  unfold decode
  split
  · next row j hrow hcommand =>
    by_cases haccepts : row.accepts w = true <;> simp [hrow, hcommand, haccepts]
  · next hnone =>
    simp only [reduceCtorEq, false_iff]
    rintro ⟨row, hrow, hcommand, -⟩
    exact hnone row i hrow hcommand

/-- The command's opcode is the number its fields were read under. -/
theorem opcodeOf_of_commandOf {n : Nat} {w : Word64} {i : Instr} (h : commandOf n w = some i) :
    (opcodeOf i).toNat = n := by
  unfold commandOf at h
  split at h <;> cases h <;> rfl

/-- Every opcode below 14 has a command (R82). -/
theorem exists_commandOf {n : Nat} (hn : n < 14) (w : Word64) : ∃ i, commandOf n w = some i := by
  interval_cases n <;> exact ⟨_, rfl⟩

/-- OP 0xE and 0xF have no row (R82, R83). -/
theorem opcodeTable_getElem?_of_ge {n : Nat} (hn : 14 ≤ n) : opcodeTable[n]? = none :=
  List.getElem?_eq_none hn

/-- What acceptance by a row says of a bit under the row's mask (R83). -/
theorem OpcodeRow.getLsbD_of_accepts {row : OpcodeRow} {w : Word64} {k : Nat}
    (h : row.accepts w = true) (hmask : row.mask.getLsbD k = true) :
    w.getLsbD k = row.pattern.getLsbD k := by
  have hword : w &&& row.mask = row.pattern := by simpa [OpcodeRow.accepts] using h
  rw [← hword, BitVec.getLsbD_and, hmask, Bool.and_true]

/-! ### The operand fields of a command (R80, R82) -/

/-- Position and width of the operand fields that a command uses (R82). -/
def operandFields : Instr → List (Nat × Nat)
  | .ptInit | .tlbInit | .tlbClearAll | .tlbClearAllRef | .tlbWriteBack | .tlbReadHand => []
  | .ptGetFrame _ | .ptClearEntry _ | .tlbClearEntry _ | .ptReadPte _ => [(8, 20)]
  | .ptUpdate _ _ => [(8, 20), (32, 20)]
  | .tlbLookup _ _ => [(4, 1), (8, 20)]
  | .tlbInsert _ _ _ _ => [(5, 1), (6, 1), (8, 20), (32, 20)]
  | .tlbReadEntry _ => [(32, 20)]

/-- The mask of a command's row leaves out nothing but the operand fields the command uses (R83). -/
theorem mask_or_operandField {i : Instr} {row : OpcodeRow}
    (hrow : opcodeTable[(opcodeOf i).toNat]? = some row) :
    ∀ k < 64, row.mask.getLsbD k = true ∨ ∃ f ∈ operandFields i, f.1 ≤ k ∧ k < f.1 + f.2 := by
  cases i <;> cases hrow <;> simp only [operandFields] <;> decide

/-- One bit of a word is the word's field of width 1. -/
theorem extractLsb'_one_eq_iff {w : Nat} {u₁ u₂ : BitVec w} {k : Nat} :
    u₁.extractLsb' k 1 = u₂.extractLsb' k 1 ↔ u₁.getLsbD k = u₂.getLsbD k := by
  refine ⟨fun h => getLsbD_eq_of_extractLsb'_eq h le_rfl (by omega), fun h => ?_⟩
  apply BitVec.eq_of_getLsbD_eq
  intro j hj
  obtain rfl : j = 0 := by omega
  simpa using h

/-- The access kind is read from bit 4 and tells its value. -/
theorem fieldSt_eq_iff {w₁ w₂ : Word64} : fieldSt w₁ = fieldSt w₂ ↔ w₁.getLsbD 4 = w₂.getLsbD 4 := by
  unfold fieldSt
  cases w₁.getLsbD 4 <;> cases w₂.getLsbD 4 <;> simp

/-- Words read as the same command agree on the operand fields it uses. -/
theorem operandFields_agree {w₁ w₂ : Word64} {i : Instr}
    (h₁ : commandOf (opcodeOf i).toNat w₁ = some i)
    (h₂ : commandOf (opcodeOf i).toNat w₂ = some i) :
    ∀ f ∈ operandFields i, w₁.extractLsb' f.1 f.2 = w₂.extractLsb' f.1 f.2 := by
  have h := h₁.trans h₂.symm
  cases i with
  | ptInit | tlbInit | tlbClearAll | tlbClearAllRef | tlbWriteBack | tlbReadHand =>
    simp [operandFields]
  | ptGetFrame v | ptClearEntry v | tlbClearEntry v | ptReadPte v =>
    simpa [opcodeOf, commandOf, operandFields, fieldVpn] using h
  | ptUpdate v f => simpa [opcodeOf, commandOf, operandFields, fieldVpn, fieldPfn] using h
  | tlbLookup v op =>
    simpa [opcodeOf, commandOf, operandFields, fieldVpn, fieldSt_eq_iff, extractLsb'_one_eq_iff,
      and_comm] using h
  | tlbInsert v f m r =>
    simpa [opcodeOf, commandOf, operandFields, fieldVpn, fieldPfn, fieldM, fieldR,
      extractLsb'_one_eq_iff, and_comm, and_left_comm, and_assoc] using h
  | tlbReadEntry k => simpa [opcodeOf, commandOf, operandFields, fieldIdx] using h

/-! ### The round trip (R86, R87) -/

/-- Settles O1: the word of a command meets its own row, and its fields are the operands. -/
theorem decodeOfEncodeGivesCommandBack : Obligations.DecodeOfEncodeGivesCommandBack :=
  Machine.decode_encode

/-- The decoder is injective on legal words: under the mask both words are the row's match, and the mask
leaves out only the fields that the command shows. -/
theorem decode_injective {w₁ w₂ : Word64} {i : Instr} (h₁ : decode w₁ = .ok i)
    (h₂ : decode w₂ = .ok i) : w₁ = w₂ := by
  obtain ⟨row, hrow, hcommand₁, haccepts₁⟩ := decode_eq_ok_iff.mp h₁
  obtain ⟨row₂, hrow₂, hcommand₂, haccepts₂⟩ := decode_eq_ok_iff.mp h₂
  rw [← opcodeOf_of_commandOf hcommand₁] at hrow hcommand₁
  rw [← opcodeOf_of_commandOf hcommand₂] at hrow₂ hcommand₂
  obtain rfl : row = row₂ := Option.some.inj (hrow.symm.trans hrow₂)
  apply BitVec.eq_of_getLsbD_eq
  intro k hk
  rcases mask_or_operandField hrow k hk with hmask | ⟨f, hf, hlo, hhi⟩
  · rw [row.getLsbD_of_accepts haccepts₁ hmask, row.getLsbD_of_accepts haccepts₂ hmask]
  · exact getLsbD_eq_of_extractLsb'_eq (operandFields_agree hcommand₁ hcommand₂ f hf) hlo hhi

/-- Settles O2: a legal word and the encoding of its command decode alike, so they are the same word. -/
theorem legalWordIsEncodingOfItsCommand : Obligations.LegalWordIsEncodingOfItsCommand :=
  ⟨fun _ i h => decode_injective (Machine.decode_encode i) h, fun _ _ _ => decode_injective⟩

/-! ### The illegal words (R83) -/

/-- A word is a command iff it meets a row of the table: every row matches its own opcode only. -/
theorem exists_decode_eq_ok_iff (w : Word64) :
    (∃ i, decode w = .ok i) ↔ ∃ r ∈ opcodeTable, w &&& r.mask = r.pattern := by
  constructor
  · rintro ⟨i, h⟩
    obtain ⟨row, hrow, -, haccepts⟩ := decode_eq_ok_iff.mp h
    exact ⟨row, List.mem_of_getElem? hrow, by simpa [OpcodeRow.accepts] using haccepts⟩
  · rintro ⟨row, hmem, hword⟩
    obtain ⟨n, hrow⟩ := List.getElem?_of_mem hmem
    have haccepts : row.accepts w = true := by simpa [OpcodeRow.accepts] using hword
    obtain rfl : (fieldOp w).toNat = n := fieldOp_of_accepts hrow haccepts
    obtain ⟨hop, -⟩ := List.getElem?_eq_some_iff.mp hrow
    obtain ⟨i, hcommand⟩ := exists_commandOf hop w
    exact ⟨i, decode_eq_ok_iff.mpr ⟨row, hrow, hcommand, haccepts⟩⟩

/-- A reserved opcode is no command. -/
theorem decode_ne_ok_of_reserved {w : Word64} (hop : fieldOp w = 0xE ∨ fieldOp w = 0xF) (i : Instr) :
    decode w ≠ .ok i := by
  intro h
  obtain ⟨row, hrow, -⟩ := decode_eq_ok_iff.mp h
  have hge : 14 ≤ (fieldOp w).toNat := by
    rcases hop with hop | hop <;> rw [hop] <;> decide
  rw [opcodeTable_getElem?_of_ge hge] at hrow
  cases hrow

/-- The bits that no field of any command takes: 7, 31:28 and 63:52 (R80). -/
def IsReservedBit (k : Nat) : Prop := k = 7 ∨ (28 ≤ k ∧ k < 32) ∨ (52 ≤ k ∧ k < 64)

theorem IsReservedBit.lt {k : Nat} (hk : IsReservedBit k) : k < 64 := by
  unfold IsReservedBit at hk
  omega

/-- Every row's mask covers the reserved bits, and its match has 0 there. -/
theorem reservedBit_of_mem_opcodeTable :
    ∀ k < 64, IsReservedBit k →
      ∀ row ∈ opcodeTable, row.mask.getLsbD k = true ∧ row.pattern.getLsbD k = false := by
  unfold IsReservedBit
  decide

/-- A legal word has 0 in every reserved bit. -/
theorem reservedBit_of_decode_eq_ok {w : Word64} {i : Instr} (h : decode w = .ok i) {k : Nat}
    (hk : IsReservedBit k) : w.getLsbD k = false := by
  obtain ⟨row, hrow, -, haccepts⟩ := decode_eq_ok_iff.mp h
  obtain ⟨hmask, hpattern⟩ :=
    reservedBit_of_mem_opcodeTable k hk.lt hk row (List.mem_of_getElem? hrow)
  rw [row.getLsbD_of_accepts haccepts hmask, hpattern]

end Sys2Proof

namespace Sys2Proof.Machine

/-- A running engine takes an illegal word and records the fault, and nothing else changes. -/
theorem step_of_illegal {s : State} {w : Word64} {rest : List Word64} (hf : s.fault = .none)
    (hinput : s.input = w :: rest) (h : ∀ i, decode w ≠ .ok i) :
    step s = .next { s with input := rest, fault := .illegalCommand } := by
  have hfetch := State.fetch_of_input hinput
  cases hdecode : decode w with
  | ok i => exact absurd hdecode (h i)
  | error x =>
    simp only [step, hfetch, hdecode]
    exact unlessHalted_of_running (s := { s with input := rest }) hf _

/-- Settles O3: the rows of the table are met by the legal words alone, and any other word faults. -/
theorem illegalWordsAreTheOnesOutsideTheTable : Obligations.IllegalWordsAreTheOnesOutsideTheTable := by
  refine ⟨exists_decode_eq_ok_iff, fun w => decode_ne_ok_of_reserved, fun w i h => ?_,
    fun s w rest => step_of_illegal, rfl⟩
  have hbit {k : Nat} (hk : IsReservedBit k) := reservedBit_of_decode_eq_ok h hk
  exact ⟨hbit (.inl rfl),
    extractLsb'_eq_zero_of_bits fun k hlo hhi => hbit (.inr (.inl ⟨hlo, hhi⟩)),
    extractLsb'_eq_zero_of_bits fun k hlo hhi => hbit (.inr (.inr ⟨hlo, hhi⟩))⟩

/-! ### The lines of the assembler (R88, R89) -/

/-- A line whose operands are in range assembles to the commands it stands for. -/
theorem assemblesTo_expandLine {l : SourceLine} (h : l.wellFormed = true) :
    AssemblesTo l (expandLine l) := by
  refine ⟨(expandLine l).map encode, if_pos h, ?_⟩
  rw [List.map_map]
  exact List.map_congr_left fun i _ => decode_encode i

theorem outOfRange_of_not_wellFormed {l : SourceLine} (h : l.wellFormed = false) : OutOfRange l := by
  rw [OutOfRange, assembleLine, h, if_neg Bool.false_ne_true]

theorem pageOperandInRange_iff (v : Nat) : pageOperandInRange v = true ↔ v ≤ 0xFFFFF := by
  rw [pageOperandInRange, decide_eq_true_iff]
  omega

theorem bitOperandInRange_iff (b : Nat) : bitOperandInRange b = true ↔ b ≤ 1 := by
  rw [bitOperandInRange, decide_eq_true_iff]
  omega

/-- A page operand in range stands in its field as written. -/
theorem pageField_toNat {v : Nat} (h : v ≤ 0xFFFFF) : (pageField v).toNat = v := by
  rw [pageField, BitVec.toNat_ofNat, Nat.mod_eq_of_lt (by omega)]

/-- A bit operand in range stands in its field as written. -/
theorem bitField_toNat {b : Nat} (h : b ≤ 1) : (bitField b).toNat = b := by
  interval_cases b <;> rfl

/-- The operand check of TLB_INSERT and TLB_REFILL. -/
theorem insertOperandsInRange_iff (v f m r : Nat) :
    (SourceLine.tlbInsert v f m r).wellFormed = true ↔ v ≤ 0xFFFFF ∧ f ≤ 0xFFFFF ∧ m ≤ 1 ∧ r ≤ 1 := by
  simp [SourceLine.wellFormed, pageOperandInRange_iff, bitOperandInRange_iff, and_assoc]

/-- The operand check of PT_UPDATE and REMAP. -/
theorem updateOperandsInRange_iff (v f : Nat) :
    (SourceLine.ptUpdate v f).wellFormed = true ↔ v ≤ 0xFFFFF ∧ f ≤ 0xFFFFF := by
  simp [SourceLine.wellFormed, pageOperandInRange_iff]

/-- Settles O8: the operand check decides between the two cases; in range, the words are those of the
line's commands, and each decodes to its own. -/
theorem assembledLinesDecodeToTheirCommands : Obligations.AssembledLinesDecodeToTheirCommands := by
  refine ⟨?noOperand, ?page, ?twoPages, ?insert, ?pageOut, ?twoPagesOut, ?insertOut⟩
  case noOperand =>
    exact ⟨assemblesTo_expandLine rfl, assemblesTo_expandLine rfl, assemblesTo_expandLine rfl,
      assemblesTo_expandLine rfl, assemblesTo_expandLine rfl, assemblesTo_expandLine rfl,
      assemblesTo_expandLine rfl⟩
  case page =>
    intro v hv
    have hin := (pageOperandInRange_iff v).mpr hv
    exact ⟨pageField v, pageField_toNat hv, assemblesTo_expandLine hin, assemblesTo_expandLine hin,
      assemblesTo_expandLine hin, fun _ => assemblesTo_expandLine hin, assemblesTo_expandLine hin,
      assemblesTo_expandLine hin, assemblesTo_expandLine hin⟩
  case twoPages =>
    intro v f hv hf
    have hin := (updateOperandsInRange_iff v f).mpr ⟨hv, hf⟩
    exact ⟨pageField v, pageField f, pageField_toNat hv, pageField_toNat hf,
      assemblesTo_expandLine hin, assemblesTo_expandLine (l := .remap v f) hin⟩
  case insert =>
    intro v f m r hv hf hm hr
    have hin := (insertOperandsInRange_iff v f m r).mpr ⟨hv, hf, hm, hr⟩
    exact ⟨pageField v, pageField f, bitField m, bitField r, pageField_toNat hv, pageField_toNat hf,
      bitField_toNat hm, bitField_toNat hr,
      assemblesTo_expandLine hin, assemblesTo_expandLine (l := .tlbRefill v f m r) hin⟩
  case pageOut =>
    intro v hv
    have hout : pageOperandInRange v = false := by
      rw [← Bool.not_eq_true, pageOperandInRange_iff]
      omega
    exact ⟨outOfRange_of_not_wellFormed hout, outOfRange_of_not_wellFormed hout,
      outOfRange_of_not_wellFormed hout, fun _ => outOfRange_of_not_wellFormed hout,
      outOfRange_of_not_wellFormed hout, outOfRange_of_not_wellFormed hout,
      outOfRange_of_not_wellFormed hout⟩
  case twoPagesOut =>
    intro v f h
    have hout : (SourceLine.ptUpdate v f).wellFormed = false := by
      rw [← Bool.not_eq_true, updateOperandsInRange_iff]
      omega
    exact ⟨outOfRange_of_not_wellFormed hout, outOfRange_of_not_wellFormed (l := .remap v f) hout⟩
  case insertOut =>
    intro v f m r h
    have hout : (SourceLine.tlbInsert v f m r).wellFormed = false := by
      rw [← Bool.not_eq_true, insertOperandsInRange_iff]
      omega
    exact ⟨outOfRange_of_not_wellFormed hout,
      outOfRange_of_not_wellFormed (l := .tlbRefill v f m r) hout⟩

/-! ### The words of vector V-E-1 -/

/-- A word that is the encoding of a command decodes to it. -/
theorem decode_of_encode_eq {w : Word64} {i : Instr} (h : encode i = w) : decode w = .ok i :=
  h ▸ decode_encode i

/-- Settles O4: each word of the vector is the encoding of its command. -/
theorem specWordsDecodeToTheirCommands : Obligations.SpecWordsDecodeToTheirCommands :=
  ⟨decode_of_encode_eq rfl, decode_of_encode_eq rfl, decode_of_encode_eq rfl, decode_of_encode_eq rfl,
    decode_of_encode_eq rfl, decode_of_encode_eq rfl, decode_of_encode_eq rfl, decode_of_encode_eq rfl,
    decode_of_encode_eq rfl, decode_of_encode_eq rfl, decode_of_encode_eq rfl, decode_of_encode_eq rfl,
    decode_of_encode_eq rfl, decode_of_encode_eq rfl, decode_of_encode_eq rfl, decode_of_encode_eq rfl⟩

/-! ### The event word (R85) -/

/-- The KIND bit is 1 for MOD and 0 for REF. -/
theorem EventKind.getLsbD_bit (x : EventKind) : x.bit.getLsbD 0 = (x == .mod) := by
  cases x <;> rfl

/-- A bit shifted to place `p` of a 32-bit word is the word's only bit. -/
theorem getLsbD_bit_shiftLeft (b : BitVec 1) {p : Nat} (hp : p < 32) (k : Nat) :
    (b.setWidth 32 <<< p).getLsbD k = (decide (k = p) && b.getLsbD 0) := by
  rw [BitVec.getLsbD_shiftLeft, BitVec.getLsbD_setWidth]
  rcases lt_trichotomy k p with hk | rfl | hk
  · simp [hk, hk.ne]
  · simp [hp]
  · have hoff : b.getLsbD (k - p) = false := BitVec.getLsbD_of_ge _ _ (by omega)
    simp [hoff, hk.ne']

/-- Every bit of an event word: the frame from bit 0, the bit at 24, the kind at 28. -/
theorem Event.getLsbD_word (e : Event) (k : Nat) :
    e.word.getLsbD k =
      (decide (k = 28) && (e.kind == .mod) || decide (k = 24) && e.bit || e.frame.getLsbD k) := by
  have hframe : (e.frame.setWidth 32).getLsbD k = e.frame.getLsbD k := by
    by_cases hk : k < 32
    · simp [hk]
    · simp [hk, BitVec.getLsbD_of_ge e.frame k (by omega)]
  rw [Event.word, BitVec.getLsbD_or, BitVec.getLsbD_or, getLsbD_bit_shiftLeft _ (by decide),
    getLsbD_bit_shiftLeft _ (by decide), EventKind.getLsbD_bit, hframe]
  simp

/-- Settles O6: the three fields do not meet, so each is read back and the bits between are 0. -/
theorem eventWordHasItsFields : Obligations.EventWordHasItsFields := by
  refine ⟨fun e => ?_, fun _ => rfl, rfl⟩
  have hframe {k : Nat} (hk : 20 ≤ k) : e.frame.getLsbD k = false := BitVec.getLsbD_of_ge _ _ hk
  have hzero {k : Nat} (hk : 20 ≤ k) (hbit : k ≠ 24) (hkind : k ≠ 28) : e.word.getLsbD k = false := by
    simp [Event.getLsbD_word, hframe hk, hbit, hkind]
  refine ⟨extractLsb'_eq_of_bits fun k hk => ?_,
    extractLsb'_eq_zero_of_bits fun k hlo hhi => hzero (by omega) (by omega) (by omega),
    by rw [Event.getLsbD_word, hframe (by decide)]; simp,
    extractLsb'_eq_zero_of_bits fun k hlo hhi => hzero (by omega) (by omega) (by omega),
    by rw [Event.getLsbD_word, hframe (by decide)]; simp,
    extractLsb'_eq_zero_of_bits fun k hlo hhi => hzero (by omega) (by omega) (by omega)⟩
  have hbit : k ≠ 24 := by omega
  have hkind : k ≠ 28 := by omega
  simp [Event.getLsbD_word, hbit, hkind]

/-! ### The response words (R84) -/

/-- A value in the low bits of a response word is read back. -/
theorem extractLsb'_low_of_setWidth {n : Nat} (x : BitVec n) (hn : n ≤ 64) :
    (x.setWidth 64).extractLsb' 0 n = x := by
  rw [BitVec.extractLsb'_setWidth_of_le (by omega), BitVec.extractLsb'_eq_self]

/-- A response word has 0 above the value in its low bits. -/
theorem extractLsb'_above_of_setWidth {n start len : Nat} (x : BitVec n) (hn : n ≤ start) :
    (x.setWidth 64).extractLsb' start len = 0 :=
  extractLsb'_eq_zero_of_bits fun k hlo _ => by
    rw [BitVec.getLsbD_setWidth, BitVec.getLsbD_of_ge x k (by omega), Bool.and_false]

/-- The flag of an absent translation meets no bit of the draw. -/
theorem respAbsent_fields (d : Pfn) :
    (respAbsent d).extractLsb' 0 20 = d ∧ (respAbsent d).extractLsb' 20 12 = 0 ∧
      (respAbsent d).getLsbD 32 = true ∧ (respAbsent d).extractLsb' 33 31 = 0 := by
  refine ⟨?_, ?_, ?_, ?_⟩
  · rw [respAbsent, BitVec.extractLsb'_or, extractLsb'_low_of_setWidth d (by decide)]
    exact BitVec.zero_or
  · rw [respAbsent, BitVec.extractLsb'_or, extractLsb'_above_of_setWidth d (by decide)]
    rfl
  · simp [respAbsent]
  · rw [respAbsent, BitVec.extractLsb'_or, extractLsb'_above_of_setWidth d (by decide)]
    rfl

/-- Settles O7: each response is a value widened with 0, a flag beside it, or two words side by side. -/
theorem responseWordsHaveTheirFields : Obligations.ResponseWordsHaveTheirFields :=
  ⟨fun f => ⟨extractLsb'_low_of_setWidth f (by decide), extractLsb'_above_of_setWidth f le_rfl⟩,
    respAbsent_fields,
    fun h => ⟨extractLsb'_low_of_setWidth h (by decide), extractLsb'_above_of_setWidth h le_rfl⟩,
    fun w => ⟨extractLsb'_low_of_setWidth w (by decide), extractLsb'_above_of_setWidth w le_rfl⟩,
    ⟨rfl, rfl, rfl⟩,
    fun _ => ⟨BitVec.extractLsb'_append_eq_right, BitVec.extractLsb'_append_eq_left⟩⟩

end Sys2Proof.Machine
end

section
/-! PROOFS of the statements of `40_page_table_radix_tree.md`: what each page-table command does and leaves
unchanged (R111 to R115), and the life of a mapping over sequences of commands (R116). -/

namespace Sys2Proof.Machine

/-! ### The words of a PTE (R52, R113, R114) -/

/-- Clearing the present bit keeps bits 30:0. -/
theorem pteCleared_extractLsb' (w : Word32) :
    (pteCleared w).extractLsb' 0 31 = w.extractLsb' 0 31 := by
  refine extractLsb'_eq_of_bits fun k hk => ?_
  have hmask : (0x7FFFFFFF#32).getLsbD k = true := by
    rw [getLsbD_keepMask k (by omega)]
    exact decide_eq_true (by omega)
  simp [pteCleared, hmask, hk]

/-- A cleared mapping keeps its frame and nothing else. -/
theorem pteCleared_mapping (f : Pfn) : pteCleared (pteMapping f) = f.setWidth 32 := by
  apply BitVec.eq_of_getLsbD_eq
  intro k hk
  rw [pteCleared, pteMapping, BitVec.getLsbD_and, BitVec.getLsbD_or, getLsbD_topBit k hk,
    getLsbD_keepMask k hk]
  by_cases htop : k = 31
  · subst htop
    simp
  · simp [htop]

/-! ### The translation of a VPN after a change of the page table (R60, R113, R114) -/

/-- The PTE written is the one translated, where its slot is allocated. -/
theorem State.ptTranslate_setPteAt_self {s : State} {v : Vpn} (ha : s.allocated v = true)
    (w : Word32) :
    (s.setPteAt v w).ptTranslate v = if ptePresent w then some (pteFrame w) else none := by
  have hnow : (s.setPteAt v w).allocated v = true := ha
  rw [State.ptTranslate, hnow, State.pteAt_setPteAt, if_pos rfl, Bool.true_and]

/-- A PTE written without its present bit translates nothing (R114). -/
theorem State.ptTranslate_setPteAt_cleared {s : State} {v : Vpn} (ha : s.allocated v = true)
    (w : Word32) : (s.setPteAt v (pteCleared w)).ptTranslate v = none := by
  rw [State.ptTranslate_setPteAt_self ha, ptePresent_cleared, if_neg Bool.false_ne_true]

/-- Writing another VPN's PTE leaves the translation. -/
theorem State.ptTranslate_setPteAt_of_ne (s : State) {u v : Vpn} (h : v ≠ u) (w : Word32) :
    (s.setPteAt u w).ptTranslate v = s.ptTranslate v := by
  have halloc : (s.setPteAt u w).allocated v = s.allocated v := rfl
  rw [State.ptTranslate, halloc, State.pteAt_setPteAt, if_neg h, State.ptTranslate]

/-- Allocating a table translates nothing more: its VPNs had no translation before, and its zeroed PTEs
give them none now (R113). -/
theorem State.ptTranslate_allocateTable {s : State} {i : TableIndex}
    (hfree : s.slotAllocated i = false) (v : Vpn) :
    (s.allocateTable i).ptTranslate v = s.ptTranslate v := by
  by_cases hi : l1 v = i
  · have hbefore : s.ptTranslate v = none :=
      State.ptTranslate_eq_none.2 (.inl (by rw [State.allocated, hi, hfree]))
    have hzero : ptePresent ((s.allocateTable i).pteAt v) = false := by
      rw [State.pteAt_allocateTable, if_pos hi]
      rfl
    rw [hbefore, State.ptTranslate_eq_none.2 (.inr hzero)]
  · rw [State.ptTranslate, State.allocated_allocateTable, State.pteAt_allocateTable, if_neg hi,
      beq_false_of_ne hi, Bool.or_false, State.ptTranslate]

/-! ### The page-table commands, one by one (R111 to R115)

Each is the run of its effect, whose record is read off field by field. -/

/-- Settles O20: the record of PT_INIT's effect. -/
theorem ptInitMarksEverySlotAbsent : Obligations.PtInitMarksEverySlotAbsent := by
  intro s hf hr
  exact ⟨_, exec_of_effect (.ptInit hr) hf, ⟨rfl, rfl, rfl, rfl⟩, rfl, fun _ => rfl, rfl,
    fun _ => rfl, rfl, ⟨rfl, rfl, rfl, rfl⟩, rfl, rfl⟩

/-- Settles O21: the slot and the PTE make the translation found. -/
theorem ptGetFrameAnswersAPresentMapping : Obligations.PtGetFrameAnswersAPresentMapping := by
  intro s v hf hr ha hp
  have hfound : s.ptTranslate v = some (pteFrame (s.pteAt v)) :=
    State.ptTranslate_eq_some.2 ⟨ha, hp, rfl⟩
  exact ⟨_, exec_of_effect (.ptGetFrameFound _ hr hfound) hf, ⟨rfl, rfl, rfl, rfl⟩, rfl, rfl, rfl,
    fun _ => rfl, rfl, ⟨rfl, rfl, rfl, rfl⟩, rfl, rfl⟩

/-- Settles O22: either cause makes the translation absent, and the PFN field answered is the draw. -/
theorem ptGetFrameReportsAPageFault : Obligations.PtGetFrameReportsAPageFault := by
  intro s v hf hr h
  have habsent : s.ptTranslate v = none := State.ptTranslate_eq_none.2 h
  exact ⟨_, s.drawn, exec_of_effect (.ptGetFrameAbsent hr habsent) hf, ⟨rfl, rfl, rfl, rfl⟩, rfl,
    rfl, rfl, fun _ => rfl, rfl, ⟨rfl, rfl, rfl, rfl⟩, rfl⟩

/-- Settles O23: in an allocated slot one PTE is written, and an unallocated slot gets its zeroed table
first. -/
theorem ptUpdateInstallsTheMapping : Obligations.PtUpdateInstallsTheMapping := by
  intro s v f hf hr hroom
  cases ha : s.allocated v with
  | true =>
    refine ⟨_, exec_of_effect (.ptUpdateAllocated hr ha) hf, ⟨rfl, rfl, rfl, rfl⟩, ?pte,
      fun u hu _ => ?table, fun u hu => ?other, fun i => ?slots, rfl, rfl, rfl,
      ⟨rfl, rfl, rfl, rfl⟩, rfl, rfl⟩
    case pte => exact (s.pteAt_setPteAt v _ v).trans (if_pos rfl)
    case table => exact (s.pteAt_setPteAt v _ u).trans (if_neg hu)
    case other => exact (s.pteAt_setPteAt v _ u).trans (if_neg fun h => hu (congrArg l1 h))
    case slots =>
      show s.slotAllocated i = (s.slotAllocated i || i == l1 v)
      have hslot : s.slotAllocated (l1 v) = true := ha
      by_cases hi : i = l1 v
      · rw [hi, hslot, Bool.true_or]
      · rw [beq_false_of_ne hi, Bool.or_false]
  | false =>
    have hpool : s.poolUsedUp = false := by
      rcases hroom with hnow | hne
      · exact absurd hnow (by simp [ha])
      · exact beq_false_of_ne hne
    have hread (u : Vpn) := (s.allocateTable (l1 v)).pteAt_setPteAt v (pteMapping f) u
    refine ⟨_, exec_of_effect (.ptUpdateAllocates hr ha hpool) hf, ⟨rfl, rfl, rfl, rfl⟩, ?pte,
      fun u hu hl => ?table, fun u hu => ?other, s.slotAllocated_allocateTable (l1 v), rfl, rfl, rfl,
      ⟨rfl, rfl, rfl, rfl⟩, rfl, rfl⟩
    case pte => exact (hread v).trans (if_pos rfl)
    case table =>
      exact (hread u).trans ((if_neg hu).trans ((s.pteAt_allocateTable _ u).trans (if_pos hl)))
    case other =>
      have hne : u ≠ v := fun h => hu (congrArg l1 h)
      exact (hread u).trans ((if_neg hne).trans ((s.pteAt_allocateTable _ u).trans (if_neg hu)))

/-- Settles O24: in an allocated slot the PTE is written with its present bit cleared. -/
theorem ptClearEntryClearsOnlyThePresentBit : Obligations.PtClearEntryClearsOnlyThePresentBit := by
  intro s v hf hr
  cases ha : s.allocated v with
  | true =>
    have hread (u : Vpn) := s.pteAt_setPteAt v (pteCleared (s.pteAt v)) u
    have hself : (s.setPteAt v (pteCleared (s.pteAt v))).pteAt v = pteCleared (s.pteAt v) :=
      (hread v).trans (if_pos rfl)
    refine ⟨_, exec_of_effect (.ptClearEntry hr ha) hf, ⟨rfl, rfl, rfl, rfl⟩, fun _ => ⟨?_, ?_⟩,
      nofun, fun u hu => (hread u).trans (if_neg hu), rfl, rfl, rfl, rfl, ⟨rfl, rfl, rfl, rfl⟩, rfl,
      rfl⟩
    · exact (congrArg ptePresent hself).trans (ptePresent_cleared _)
    · exact (congrArg (BitVec.extractLsb' 0 31) hself).trans (pteCleared_extractLsb' _)
  | false =>
    exact ⟨_, exec_of_effect (.ptClearEntryNothing hr ha) hf, ⟨rfl, rfl, rfl, rfl⟩, nofun,
      fun _ => rfl, fun _ _ => rfl, rfl, rfl, rfl, rfl, ⟨rfl, rfl, rfl, rfl⟩, rfl, rfl⟩

/-- Settles O25: the record of PT_READ_PTE's effect. -/
theorem ptReadPteAnswersTheRawEntry : Obligations.PtReadPteAnswersTheRawEntry := by
  intro s v hf hr
  exact exec_of_effect (.ptReadPte hr) hf

/-! ### Sequences of commands -/

/-- What every command of a sequence keeps holds where the sequence ends. -/
theorem runCommands_keeps {P : State → Prop} {Q : Instr → Prop}
    (hstep : ∀ i s t, Q i → CommandEffect i s t → P s → P t) {is : List Instr} {s t : State}
    (his : ∀ i ∈ is, Q i) (hrun : runCommands is s = .next t) (hs : P s) : P t := by
  induction is generalizing s with
  | nil => cases hrun; exact hs
  | cons i is ih =>
    obtain ⟨hi, his⟩ := List.forall_mem_cons.1 his
    rw [runCommands] at hrun
    split at hrun
    · next u hu => exact ih his hrun (hstep i s u hi (exec_effect hu) hs)
    · cases hrun
    · cases hrun

/-- A sequence that ends without a fault began without one: `FAULT` is sticky (R223). -/
theorem fault_eq_none_of_runCommands {is : List Instr} {s t : State}
    (hrun : runCommands is s = .next t) (ht : t.fault = .none) : s.fault = .none := by
  by_contra hs
  exact runCommands_keeps (P := fun s => s.fault ≠ .none) (Q := fun _ => True)
    (fun _ _ _ _ he hs hf => hs (he.running hf)) (fun _ _ => trivial) hrun hs ht

/-! ### The life of a mapping (R116) -/

/-- The page table is ready, and this is how it translates `v`. -/
structure Translates (v : Vpn) (r : Option Pfn) (s : State) : Prop where
  ready : s.ptReady = true
  translate : s.ptTranslate v = r

section Effects

variable {i : Instr} {s t : State} (he : CommandEffect i s t)
include he

/-- Nothing makes the page table unready again (R23). -/
theorem CommandEffect.ptReady_of_ptReady (hr : s.ptReady = true) : t.ptReady = true := by
  cases he with
  | ptInit => rfl
  | _ => exact hr

/-- Only an update or a clear of `v` changes its translation, once the page table is ready. -/
theorem CommandEffect.ptTranslate_eq {v : Vpn} (hr : s.ptReady = true)
    (hi : changesMapping v i = false) : t.ptTranslate v = s.ptTranslate v := by
  cases he with
  | ptInit hnot => rw [hr] at hnot; cases hnot
  | @ptUpdateAllocated _ u f =>
    exact s.ptTranslate_setPteAt_of_ne (Ne.symm (by simpa [changesMapping] using hi)) _
  | @ptUpdateAllocates _ u f _ hfree =>
    have hne : v ≠ u := Ne.symm (by simpa [changesMapping] using hi)
    exact ((s.allocateTable (l1 u)).ptTranslate_setPteAt_of_ne hne _).trans
      (State.ptTranslate_allocateTable hfree v)
  | @ptClearEntry _ u =>
    exact s.ptTranslate_setPteAt_of_ne (Ne.symm (by simpa [changesMapping] using hi)) _
  | _ => rfl

/-- Until it is updated or cleared, a VPN translates as it did. -/
theorem CommandEffect.translates {v : Vpn} {r : Option Pfn} (hi : changesMapping v i = false)
    (h : Translates v r s) : Translates v r t :=
  ⟨he.ptReady_of_ptReady h.ready, (he.ptTranslate_eq h.ready hi).trans h.translate⟩

end Effects

/-- Clearing a VPN that has no translation gives it none. -/
theorem CommandEffect.translates_none_of_clear {v : Vpn} {s t : State}
    (he : CommandEffect (.ptClearEntry v) s t) (h : Translates v none s) : Translates v none t := by
  refine ⟨he.ptReady_of_ptReady h.ready, ?_⟩
  cases he with
  | faults | ptClearEntryNothing => exact h.translate
  | ptClearEntry hr ha => exact State.ptTranslate_setPteAt_cleared ha _

/-- Until it is updated, a VPN without a translation has none. -/
theorem CommandEffect.translates_none {i : Instr} {v : Vpn} {s t : State}
    (he : CommandEffect i s t) (hi : updatesVpn v i = false) (h : Translates v none s) :
    Translates v none t := by
  cases hc : changesMapping v i with
  | false => exact he.translates hc h
  | true =>
    cases i with
    | ptUpdate u f => cases hc.symm.trans hi
    | ptClearEntry u =>
      obtain rfl : u = v := by simpa [changesMapping] using hc
      exact he.translates_none_of_clear h
    | _ => cases hc

/-- After PT_INIT no VPN has a translation (R111). -/
theorem CommandEffect.translates_none_of_ptInit {s t : State} (he : CommandEffect .ptInit s t)
    (ht : t.fault = .none) (v : Vpn) : Translates v none t := by
  cases he with
  | faults c hc => exact absurd ht hc
  | ptInit => exact ⟨rfl, State.ptTranslate_eq_none.2 (.inl rfl)⟩

/-- What an update that did not fault leaves of the page table: the slot is allocated, and the PTE is the
mapping (R113). -/
theorem CommandEffect.installed_of_ptUpdate {v : Vpn} {f : Pfn} {s t : State}
    (he : CommandEffect (.ptUpdate v f) s t) (ht : t.fault = .none) :
    t.ptReady = true ∧ t.allocated v = true ∧ t.pteAt v = pteMapping f := by
  cases he with
  | faults c hc => exact absurd ht hc
  | ptUpdateAllocated hr ha => exact ⟨hr, ha, State.pteAt_of_written rfl⟩
  | ptUpdateAllocates hr =>
    have hnow : (s.allocateTable (l1 v)).allocated v = true := by simp [State.allocated_allocateTable]
    exact ⟨hr, hnow, State.pteAt_of_written rfl⟩

/-- A mapping stored in an allocated slot is the VPN's translation. -/
theorem State.ptTranslate_of_mapping {s : State} {v : Vpn} {f : Pfn} (ha : s.allocated v = true)
    (hw : s.pteAt v = pteMapping f) : s.ptTranslate v = some f :=
  State.ptTranslate_eq_some.2 ⟨ha, by rw [hw, ptePresent_mapping], by rw [hw, pteFrame_mapping]⟩

/-- An update that did not fault is the VPN's translation. -/
theorem CommandEffect.translates_of_ptUpdate {v : Vpn} {f : Pfn} {s t : State}
    (he : CommandEffect (.ptUpdate v f) s t) (ht : t.fault = .none) : Translates v (some f) t := by
  obtain ⟨hr, ha, hw⟩ := he.installed_of_ptUpdate ht
  exact ⟨hr, State.ptTranslate_of_mapping ha hw⟩

/-- Settles O50: the update makes `f` the translation of `v`, every other command keeps it, and
PT_GET_FRAME answers the translation. -/
theorem updatedMappingIsReturnedUntilChanged : Obligations.UpdatedMappingIsReturnedUntilChanged := by
  intro s t u v f is hupdate his hrun hu
  have hstart : Translates v (some f) t :=
    (exec_effect hupdate).translates_of_ptUpdate (fault_eq_none_of_runCommands hrun hu)
  have hend : Translates v (some f) u :=
    runCommands_keeps (fun _ _ _ hi he => he.translates hi) his hrun hstart
  exact ⟨_, exec_of_effect (.ptGetFrameFound f hend.ready hend.translate) hu, hu, rfl, rfl⟩

/-- Settles O51: PT_INIT leaves `v` without a translation, and no command but its update gives it one. -/
theorem neverUpdatedVpnPageFaults : Obligations.NeverUpdatedVpnPageFaults := by
  intro s u v is hnot hrun his hu
  have hs : s.fault = .none := fault_eq_none_of_runCommands hrun hu
  have he : CommandEffect .ptInit s _ := .ptInit hnot
  rw [runCommands, exec_of_effect he hs] at hrun
  have hend : Translates v none u :=
    runCommands_keeps (fun _ _ _ hi he => he.translates_none hi) his hrun
      (he.translates_none_of_ptInit hs v)
  exact ⟨_, u.drawn, exec_of_effect (.ptGetFrameAbsent hend.ready hend.translate) hu, hu, rfl, rfl⟩

/-- Settles O52: the clear leaves the frame without its present bit in the allocated slot, so the lookup
page-faults and the second update allocates nothing. -/
theorem clearedMappingCanBeInstalledAgain : Obligations.ClearedMappingCanBeInstalledAgain := by
  intro s t v f hupdate ht
  obtain ⟨hr, ha, hw⟩ := (exec_effect hupdate).installed_of_ptUpdate ht
  have hpte : (t.setPteAt v (pteCleared (t.pteAt v))).pteAt v = f.setWidth 32 := by
    rw [State.pteAt_setPteAt, if_pos rfl, hw, pteCleared_mapping]
  refine ⟨_, _, _, _, t.drawn, exec_of_effect (.ptClearEntry hr ha) ht, hpte,
    exec_of_effect (.ptGetFrameAbsent hr (State.ptTranslate_setPteAt_cleared ha _)) ht, rfl, rfl,
    exec_of_effect (.ptUpdateAllocated hr ha) ht, ht, rfl,
    exec_of_effect (.ptGetFrameFound f hr
      (State.ptTranslate_of_mapping ha (State.pteAt_of_written rfl))) ht, rfl, rfl⟩

end Sys2Proof.Machine
end

section
/-! PROOFS of the statements of `41_tlb_direct_cache.md`: what each TLB command but insertion and
write-back does and leaves unchanged (R141 to R146, R150, R151), and what a lookup finds after an
insertion or a flush (R147, R148). -/

namespace Sys2Proof

/-! ### The words of an entry (R142, R146) -/

/-- A hit keeps bits 29:0 of `W2`: the bits it sets are 31 and 30. -/
theorem TlbEntry.touched_w2_low (op : Access) (e : TlbEntry) :
    (e.touched op).w2.extractLsb' 0 30 = e.w2.extractLsb' 0 30 := by
  refine extractLsb'_eq_of_bits fun k hk => ?_
  have hkept : (hitBits op).getLsbD k = false := by
    have h31 : k ≠ 31 := by omega
    have h30 : k ≠ 30 := by omega
    rw [getLsbD_hitBits op k (by omega)]
    simp [h31, h30]
  simp [TlbEntry.touched, hkept, hk]

theorem TlbEntry.clearedFor_of_vpn_eq {v : Vpn} {e : TlbEntry} (h : e.vpn = v) :
    e.clearedFor v = e.invalidated :=
  if_pos (beq_iff_eq.2 h)

theorem TlbEntry.clearedFor_of_vpn_ne {v : Vpn} {e : TlbEntry} (h : e.vpn ≠ v) :
    e.clearedFor v = e :=
  if_neg fun hnames => h (beq_iff_eq.1 hnames)

/-- An entry cleared for a VPN does not hold it: it is invalid, or it names another (R146). -/
theorem TlbEntry.clearedFor_holds (v : Vpn) (e : TlbEntry) : (e.clearedFor v).holds v = false := by
  by_cases h : e.vpn = v
  · rw [TlbEntry.clearedFor_of_vpn_eq h, TlbEntry.invalidated_holds]
  · rw [TlbEntry.clearedFor_of_vpn_ne h, TlbEntry.holds, beq_false_of_ne h, Bool.and_false]

end Sys2Proof

namespace Sys2Proof.Machine

/-! ### One entry after a change of the array (R30) -/

/-- A listed entry after a map over the array. -/
theorem State.entry_of_map {s t : State} {g : TlbEntry → TlbEntry} (h : t.tlb = s.tlb.map g) {k : Nat}
    (hk : k < s.tlb.length) : t.entry k = g (s.entry k) := by
  rw [State.entry, h, getD_map_entry, if_pos hk]
  rfl

/-- After a map over the array that leaves no entry holding a VPN, no index reads as one that holds it. -/
theorem State.not_holds_of_map {s t : State} {g : TlbEntry → TlbEntry} (h : t.tlb = s.tlb.map g)
    {v : Vpn} (hg : ∀ e, (g e).holds v = false) (k : Nat) : (t.entry k).holds v = false := by
  rw [State.entry, h, getD_map_entry]
  split
  · exact hg _
  · exact TlbEntry.zero_holds v

/-- The entry that a lookup hits is marked used. -/
theorem State.entry_of_hit {s t : State} {k : Nat} {v : Vpn} {op : Access}
    (h : t.tlb = s.tlb.modify k (TlbEntry.touched op)) (hk : s.tlbFind v = some k) :
    t.entry k = (s.entry k).touched op := by
  obtain ⟨hholds, -⟩ := State.tlbFind_eq_some.1 hk
  rw [State.entry_of_touched h, if_pos ⟨rfl, State.lt_of_holds hholds⟩]

/-- Below `N` decides for the whole array: no index past the list reads as a valid entry. -/
theorem State.tlbFind_eq_none_of_capacity {s : State} (hcap : TlbHasCapacity s) {v : Vpn} :
    s.tlbFind v = none ↔ ∀ k, k < s.cfg.n → (s.entry k).holds v = false := by
  rw [State.tlbFind_eq_none]
  refine ⟨fun h k _ => h k, fun h k => ?_⟩
  by_contra hne
  have hholds : (s.entry k).holds v = true := by simpa using hne
  exact hne (h k (hcap ▸ State.lt_of_holds hholds))

/-- Nothing makes the TLB unready again (R23). -/
theorem CommandEffect.tlbReady_of_tlbReady {i : Instr} {s t : State} (he : CommandEffect i s t)
    (hr : s.tlbReady = true) : t.tlbReady = true := by
  cases he with
  | tlbInit => rfl
  | _ => exact hr

/-! ### A flushed translation (R148, R68) -/

/-- The TLB is ready, and a lookup of `v` misses. -/
structure Misses (v : Vpn) (s : State) : Prop where
  ready : s.tlbReady = true
  absent : ∀ k, (s.entry k).holds v = false

/-- No change of an entry but the loading by TLB_INIT and the insertion of `v` makes it hold `v`. -/
theorem EntryEffect.not_holds {i : Instr} {e e' : TlbEntry} (h : EntryEffect i e e') {v : Vpn}
    (hinit : i ≠ .tlbInit) (hinsert : insertsVpn v i = false) (he : e.holds v = false) :
    e'.holds v = false := by
  cases h with
  | kept => exact he
  | loaded hi => exact absurd hi hinit
  | touched hi => rwa [TlbEntry.touched_holds]
  | filled hi =>
    subst hi
    rw [TlbEntry.filled_holds]
    exact hinsert
  | invalidated hi => exact TlbEntry.invalidated_holds ..
  | unreferenced hi => rwa [TlbEntry.unreferenced_holds]

/-- Until it is inserted, a VPN that misses goes on to miss: a ready TLB makes TLB_INIT fault. -/
theorem CommandEffect.misses {i : Instr} {s t : State} (he : CommandEffect i s t) {v : Vpn}
    (hinsert : insertsVpn v i = false) (h : Misses v s) : Misses v t := by
  refine ⟨he.tlbReady_of_tlbReady h.ready, fun k => ?_⟩
  by_cases hinit : i = .tlbInit
  · subst hinit
    cases he with
    | faults => exact h.absent k
    | tlbInit hnot => rw [h.ready] at hnot; cases hnot
  · exact (he.entryEffect k).not_holds hinit hinsert (h.absent k)

/-- After TLB_CLEAR_ALL every VPN misses (R144). -/
theorem CommandEffect.misses_of_clearAll {s t : State} (he : CommandEffect .tlbClearAll s t)
    (ht : t.fault = .none) (v : Vpn) : Misses v t := by
  cases he with
  | faults c hc => exact absurd ht hc
  | tlbClearAll hr => exact ⟨hr, State.not_holds_of_map rfl fun e => e.invalidated_holds v⟩

/-- After TLB_CLEAR_ENTRY its VPN misses: it clears every match (R146). -/
theorem CommandEffect.misses_of_clearEntry {s t : State} {v : Vpn}
    (he : CommandEffect (.tlbClearEntry v) s t) (ht : t.fault = .none) : Misses v t := by
  cases he with
  | faults c hc => exact absurd ht hc
  | tlbClearEntry hr =>
    exact ⟨hr, State.not_holds_of_map (g := TlbEntry.clearedFor v) rfl (TlbEntry.clearedFor_holds v)⟩

/-- Settles O54: either clearing leaves `v` missing, and no command but its insertion ends that. -/
theorem flushedTranslationMissesUntilInserted : Obligations.FlushedTranslationMissesUntilInserted := by
  intro s t u v op c is hc hexec his hrun hu
  have ht : t.fault = .none := fault_eq_none_of_runCommands hrun hu
  have hstart : Misses v t := by
    rcases hc with rfl | rfl
    · exact (exec_effect hexec).misses_of_clearAll ht v
    · exact (exec_effect hexec).misses_of_clearEntry ht
  have hend : Misses v u := runCommands_keeps (fun _ _ _ hi he => he.misses hi) his hrun hstart
  exact ⟨_, u.drawn,
    exec_of_effect (.tlbLookupMiss hend.ready (State.tlbFind_eq_none.2 hend.absent)) hu, hu, rfl, rfl⟩

/-! ### Initialisation (R141) -/

/-- Settles O26: each entry is the configuration's, invalidated. -/
theorem tlbInitLoadsInvalidEntries : Obligations.TlbInitLoadsInvalidEntries := by
  intro s hf hr
  refine ⟨_, exec_of_effect (.tlbInit hr) hf, ⟨rfl, rfl, rfl, rfl⟩, rfl, rfl,
    (List.length_map _).trans s.cfg.contents_length, fun k hk => ?entries, rfl,
    ⟨rfl, rfl, rfl, fun _ => rfl, rfl, rfl⟩, rfl, rfl⟩
  case entries =>
    have hlt : k < s.cfg.tlbInitContents.length := s.cfg.contents_length.symm ▸ hk
    rw [State.entry, getD_map_entry, if_pos hlt]
    exact ⟨TlbEntry.invalidated_valid _, TlbEntry.invalidated_w1_low _, TlbEntry.invalidated_w2 _⟩

/-! ### Lookup (R142, R143) -/

/-- Settles O27: the entry given is the one found, and the hit marks it alone. -/
theorem tlbLookupHitMarksTheFirstMatch : Obligations.TlbLookupHitMarksTheFirstMatch := by
  intro s v op k hf hr _ _ hholds hfirst
  have hfind : s.tlbFind v = some k := State.tlbFind_eq_some.2 ⟨hholds, hfirst⟩
  refine ⟨_, exec_of_effect (.tlbLookupHit k hr hfind) hf, ⟨rfl, rfl, rfl, rfl⟩, rfl, ?_⟩
  rw [State.entry_of_hit (s := s) (op := op) rfl hfind]
  exact ⟨TlbEntry.touched_w1 .., TlbEntry.touched_referenced .., TlbEntry.touched_modified ..,
    TlbEntry.touched_w2_low ..,
    fun j hj => (State.entry_of_touched rfl j).trans (if_neg fun h => hj h.1),
    List.length_modify .., rfl, rfl, ⟨rfl, rfl, rfl, fun _ => rfl, rfl, rfl⟩, rfl, rfl⟩

/-- Settles O28: the flag, the draw and the response are all that the miss changes. -/
theorem tlbLookupMissChangesOnlyTheFlag : Obligations.TlbLookupMissChangesOnlyTheFlag := by
  intro s v op hf hr hcap hnone
  have hfind : s.tlbFind v = none := (State.tlbFind_eq_none_of_capacity hcap).2 hnone
  exact ⟨_, s.drawn, exec_of_effect (.tlbLookupMiss hr hfind) hf, ⟨rfl, rfl, rfl, rfl⟩, rfl, rfl, rfl,
    rfl, ⟨rfl, rfl, rfl, fun _ => rfl, rfl, rfl⟩, rfl⟩

/-- On a nonempty array the source's loop leaves whether the search found nothing: its last write of the
flag is at the first match, or at the last entry (R143). -/
theorem literalMissFlag_eq_isNone_findIdx? {v : Vpn} {l : List TlbEntry} (hl : l ≠ [])
    (before : Option Bool) :
    literalMissFlag v l before = some (l.findIdx? (TlbEntry.holds v)).isNone := by
  induction l generalizing before with
  | nil => exact absurd rfl hl
  | cons e es ih =>
    rw [literalMissFlag, List.findIdx?_cons]
    by_cases he : e.holds v = true
    · rw [if_pos he, if_pos he]
      rfl
    · rw [if_neg he, if_neg he, Option.isNone_map]
      by_cases hes : es = []
      · subst hes
        rfl
      · exact ih hes _

/-- An array with its `N` entries is not empty (R9). -/
theorem tlb_ne_nil_of_capacity {s : State} (hcap : TlbHasCapacity s) : s.tlb ≠ [] := by
  intro hnil
  have hzero : 0 = s.cfg.n := by rw [← hcap, hnil, List.length_nil]
  have hpos := s.cfg.n_range.1
  omega

/-- What a lookup by a ready engine answers: a word whose bit 32 is the flag, which says whether the search
found nothing, and whose low bits are the frame where it found one (R84, R142). -/
theorem tlbLookup_answer {s t : State} {v : Vpn} {op : Access} (hf : s.fault = .none)
    (hr : s.tlbReady = true) (hexec : exec (.tlbLookup v op) s = .next t) :
    t.tlbMiss = some (s.tlbFind v).isNone ∧
      ∃ w : Word64, t.responses = s.responses ++ [.word w] ∧
        w.getLsbD 32 = (s.tlbFind v).isNone ∧
        ((s.tlbFind v).isNone = false → s.tlbTranslate v = some (w.extractLsb' 0 20)) := by
  cases hfind : s.tlbFind v with
  | some k =>
    have hhit := exec_of_effect (.tlbLookupHit (op := op) k hr hfind) hf
    obtain rfl := Host.Outcome.next.inj (hhit.symm.trans hexec)
    refine ⟨rfl, respFound (s.entry k).pfn, rfl, ?flag, fun _ => ?frame⟩
    case flag => simp [respFound]
    case frame =>
      rw [State.tlbTranslate, hfind, respFound, extractLsb'_low_of_setWidth _ (by decide)]
      rfl
  | none =>
    have hnone := exec_of_effect (.tlbLookupMiss (op := op) hr hfind) hf
    obtain rfl := Host.Outcome.next.inj (hnone.symm.trans hexec)
    obtain ⟨-, -, hflag, -⟩ := respAbsent_fields s.drawn
    exact ⟨rfl, respAbsent s.drawn, rfl, hflag, nofun⟩

/-- Settles O29: the flag is whether the search found nothing, and so are the contract and the loop. -/
theorem missFlagIsTheContractAndTheLiteralLoop : Obligations.MissFlagIsTheContractAndTheLiteralLoop := by
  refine ⟨fun s t v op hf hr hcap hexec => ?_, fun _ _ => rfl⟩
  obtain ⟨hmiss, w, hresponse, hbit, hframe⟩ := tlbLookup_answer hf hr hexec
  refine ⟨?contract, ⟨w, _, hresponse, hmiss, hbit, hframe⟩, fun before => ?loop⟩
  case contract =>
    have hholds (k : Nat) : ((s.entry k).w1.getLsbD 31 = true ∧ (s.entry k).w1.extractLsb' 0 20 = v) ↔
        (s.entry k).holds v = true := (TlbEntry.holds_iff v (s.entry k)).symm
    simp only [hmiss, hholds, Option.some.injEq, Option.isNone_iff_eq_none,
      State.tlbFind_eq_none_of_capacity hcap, not_exists, not_and, Bool.not_eq_true]
  case loop =>
    rw [hmiss]
    exact literalMissFlag_eq_isNone_findIdx? (tlb_ne_nil_of_capacity hcap) before

/-! ### Clearing (R144, R145, R146) -/

/-- Settles O32: each entry is the one cleared for the VPN. -/
theorem tlbClearEntryClearsEveryMatch : Obligations.TlbClearEntryClearsEveryMatch := by
  intro s v hf hr hcap
  have hlt {k : Nat} (hk : k < s.cfg.n) : k < s.tlb.length := hcap.symm ▸ hk
  refine ⟨_, exec_of_effect (.tlbClearEntry hr) hf, ⟨rfl, rfl, rfl, rfl⟩,
    (List.length_map _).trans hcap, fun k hk hv => ?named, fun k hk hv => ?other,
    State.not_holds_of_map (g := TlbEntry.clearedFor v) rfl (TlbEntry.clearedFor_holds v), rfl, rfl, rfl,
    ⟨rfl, rfl, rfl, fun _ => rfl, rfl, rfl⟩, rfl, rfl⟩
  case named =>
    rw [State.entry_of_map (s := s) (g := TlbEntry.clearedFor v) rfl (hlt hk),
      TlbEntry.clearedFor_of_vpn_eq hv]
    exact ⟨TlbEntry.invalidated_valid _, TlbEntry.invalidated_w1_low _, TlbEntry.invalidated_w2 _⟩
  case other =>
    rw [State.entry_of_map (s := s) (g := TlbEntry.clearedFor v) rfl (hlt hk),
      TlbEntry.clearedFor_of_vpn_ne hv]

/-- Settles O30: each entry is the one before, invalidated. -/
theorem tlbClearAllClearsEveryValidBit : Obligations.TlbClearAllClearsEveryValidBit := by
  intro s hf hr hcap
  refine ⟨_, exec_of_effect (.tlbClearAll hr) hf, ⟨rfl, rfl, rfl, rfl⟩,
    (List.length_map _).trans hcap, fun k hk => ?entries, rfl, rfl, rfl,
    ⟨rfl, rfl, rfl, fun _ => rfl, rfl, rfl⟩, rfl, rfl⟩
  case entries =>
    rw [State.entry_of_map (s := s) rfl (hcap.symm ▸ hk)]
    exact ⟨TlbEntry.invalidated_valid _, TlbEntry.invalidated_w1_low _, TlbEntry.invalidated_w2 _⟩

/-- Settles O31: each entry is the one before, unreferenced. -/
theorem tlbClearAllRefClearsEveryReferenceBit : Obligations.TlbClearAllRefClearsEveryReferenceBit := by
  intro s hf hr hcap
  refine ⟨_, exec_of_effect (.tlbClearAllRef hr) hf, ⟨rfl, rfl, rfl, rfl⟩,
    (List.length_map _).trans hcap, fun k hk => ?entries, rfl, rfl, rfl,
    ⟨rfl, rfl, rfl, fun _ => rfl, rfl, rfl⟩, rfl, rfl⟩
  case entries =>
    rw [State.entry_of_map (s := s) rfl (hcap.symm ▸ hk)]
    exact ⟨TlbEntry.unreferenced_referenced _, TlbEntry.unreferenced_w2_low _,
      TlbEntry.unreferenced_w1 _⟩

/-! ### The debug reads (R150, R151) -/

/-- Settles O33: the command's own check of the index decides between the answer and the fault. -/
theorem tlbReadEntryAnswersBothWords : Obligations.TlbReadEntryAnswersBothWords := by
  intro s k hf hr
  exact ⟨fun hk => exec_of_effect (.tlbReadEntry hr hk) hf,
    fun hk => (tlbCommand_of_ready hf hr _).trans (if_pos hk)⟩

/-- Settles O34: the record of TLB_READ_HAND's effect. -/
theorem tlbReadHandAnswersTheHand : Obligations.TlbReadHandAnswersTheHand := by
  intro s hf hr
  exact exec_of_effect (.tlbReadHand hr) hf

/-! ### A lookup after an insertion (R147) -/

/-- An insertion leaves every entry but its victim. -/
theorem CommandEffect.entry_of_insert_of_ne {s t : State} {vpn : Vpn} {pfn : Pfn} {m r : Bool}
    (he : CommandEffect (.tlbInsert vpn pfn m r) s t) {k v : Nat} (hcap : TlbHasCapacity s)
    (hv : IsVictim s v) (hk : k ≠ v) : t.entry k = s.entry k := by
  obtain rfl : v = s.victim := hv.unique (State.victim_isVictim hcap)
  cases he with
  | faults => rfl
  | tlbInsert =>
    rw [State.entry, getD_set_entry, if_neg fun h => hk h.1]
    rfl

/-- Settles O53: the filled victim is the lowest entry that holds the VPN, so the lookup finds it, answers
its frame and marks it. -/
theorem insertedTranslationHits : Obligations.InsertedTranslationHits := by
  intro s t vpn pfn m r op v hr hcap hhand hv hlower hexec ht
  have he := exec_effect hexec
  have hfilled := he.entry_victim_of_insert ht hcap hv (hv.lt hr hhand)
  have hfind : t.tlbFind vpn = some v := by
    refine State.tlbFind_eq_some.2 ⟨?_, fun j hj => ?_⟩
    · rw [hfilled, TlbEntry.filled_holds, BEq.rfl]
    · rw [he.entry_of_insert_of_ne hcap hv (Nat.ne_of_lt hj), hlower j hj]
  have hready : t.tlbReady = true := he.tlbReady_of_tlbReady hr
  refine ⟨_, exec_of_effect (.tlbLookupHit v hready hfind) ht, ht, rfl, ?frame, ?_⟩
  case frame => simp only [hfilled, TlbEntry.filled_pfn]
  rw [State.entry_of_hit (s := t) (op := op) rfl hfind, hfilled]
  refine ⟨?_, TlbEntry.touched_referenced .., ?_⟩
  · rw [TlbEntry.touched_holds, TlbEntry.filled_holds, BEq.rfl]
  · rw [TlbEntry.touched_modified, TlbEntry.filled_modified]

end Sys2Proof.Machine
end

section
/-! PROOFS of the statements of `42_tlb_clock_eviction_fsm.md`: which entry TLB_INSERT replaces and what it
leaves (R170 to R176), the state machine that performs it phase by phase (R177), and the filling of the TLB
from TLB_INIT on (R178, R179). -/

namespace Sys2Proof

/-- An entry that the victim scan passes over (R171). -/
theorem TlbEntry.candidate_eq_false {e : TlbEntry} :
    e.candidate = false ↔ e.valid = true ∧ e.referenced = true := by
  rw [TlbEntry.candidate, Bool.or_eq_false_iff, Bool.not_eq_false', Bool.not_eq_false']

end Sys2Proof

namespace Sys2Proof.Machine

/-! ### What an insertion does, at any victim (R170, R173) -/

/-- The state after an insertion at entry `v` that does not fault (R170). -/
def State.inserted (s : State) (v : Nat) (vpn : Vpn) (pfn : Pfn) (m r : Bool) : State :=
  { s.evictAndFill v vpn pfn m r with responses := s.responses ++ [.respNone] }

section Insertion

variable {s : State} {vpn : Vpn} {pfn : Pfn} {m r : Bool} {v : Nat}

theorem IsVictim.eq_victim (hv : IsVictim s v) (hcap : TlbHasCapacity s) : v = s.victim :=
  hv.unique (State.victim_isVictim hcap)

/-- An insertion that the uniqueness check does not refuse evicts and fills the victim. -/
theorem exec_tlbInsert_of_free (hf : s.fault = .none) (hr : s.tlbReady = true)
    (hcap : TlbHasCapacity s) (hv : IsVictim s v)
    (hfree : s.cfg.checkUnique = true → ¬ HeldElsewhere s v vpn) :
    exec (.tlbInsert vpn pfn m r) s = .next (s.inserted v vpn pfn m r) := by
  obtain rfl := hv.eq_victim hcap
  refine exec_of_effect (.tlbInsert hr fun hc => ?_) hf
  rw [← Bool.not_eq_true, State.heldElsewhere_iff hcap]
  exact hfree hc

/-- What TLB_INSERT tests before it writes (R173). -/
theorem refuses_iff (hcap : TlbHasCapacity s) :
    (s.cfg.checkUnique && s.heldElsewhere v vpn) = true ↔
      s.cfg.checkUnique = true ∧ HeldElsewhere s v vpn := by
  rw [Bool.and_eq_true, State.heldElsewhere_iff hcap]

/-- An insertion that the uniqueness check refuses records the fault and nothing else (R173, R222). -/
theorem exec_tlbInsert_of_held (hf : s.fault = .none) (hr : s.tlbReady = true)
    (hcap : TlbHasCapacity s) (hv : IsVictim s v) (hc : s.cfg.checkUnique = true)
    (hheld : HeldElsewhere s v vpn) :
    exec (.tlbInsert vpn pfn m r) s = .next { s with fault := .duplicateVpn } := by
  obtain rfl := hv.eq_victim hcap
  exact (tlbCommand_of_ready hf hr _).trans (if_pos ((refuses_iff hcap).2 ⟨hc, hheld⟩))

/-- An insertion that answered without a fault has evicted and filled the victim. -/
theorem eq_inserted_of_exec {t : State} (hcap : TlbHasCapacity s) (hv : IsVictim s v)
    (hexec : exec (.tlbInsert vpn pfn m r) s = .next t) (ht : t.fault = .none) :
    t = s.inserted v vpn pfn m r := by
  obtain rfl := hv.eq_victim hcap
  cases exec_effect hexec with
  | faults c hc => exact absurd ht hc
  | tlbInsert => rfl

theorem State.inserted_notify : (s.inserted v vpn pfn m r).notify =
    s.notify ++ writeBackEvents (s.entry v) := rfl

theorem State.entry_inserted_self (hcap : TlbHasCapacity s) (hlt : v < s.cfg.n) :
    (s.inserted v vpn pfn m r).entry v = TlbEntry.filled vpn pfn m r := by
  have hlen : v < s.tlb.length := hcap.symm ▸ hlt
  exact (getD_set_entry ..).trans (if_pos ⟨rfl, hlen⟩)

theorem State.entry_inserted_of_ne {j : Nat} (hj : j ≠ v) :
    (s.inserted v vpn pfn m r).entry j = s.entry j :=
  (getD_set_entry ..).trans (if_neg fun h => hj h.1)

/-- The inserted translation stands at the victim. -/
theorem State.inserted_holds (hcap : TlbHasCapacity s) (hlt : v < s.cfg.n) :
    ((s.inserted v vpn pfn m r).entry v).holds vpn = true := by
  rw [State.entry_inserted_self hcap hlt, TlbEntry.filled_holds, BEq.rfl]

end Insertion

/-! ### The victim and the hand (R171, R172, R175) -/

/-- An invalid entry at the hand is taken at once. -/
theorem isVictim_of_hand_of_invalid {s : State} {v : Nat} (hhand : s.hand.toNat = v)
    (hlt : v < s.cfg.n) (hinvalid : (s.entry v).valid = false) : IsVictim s v :=
  .inl ⟨Nat.le_of_eq hhand, hlt, by rw [TlbEntry.candidate, hinvalid]; rfl,
    fun _ hle hk => absurd hk (Nat.not_lt.2 (hhand ▸ hle))⟩

theorem State.handAfter_toNat_of_lt {s : State} {v : Nat} (h : v + 1 < s.cfg.n) :
    (s.handAfter v).toNat = v + 1 := by
  rw [State.handAfter_toNat, Nat.mod_eq_of_lt h]

theorem State.handAfter_of_last {s : State} {v : Nat} (h : v + 1 = s.cfg.n) : s.handAfter v = 0 :=
  BitVec.eq_of_toNat_eq (by rw [State.handAfter_toNat, h, Nat.mod_self]; rfl)

/-- Settles O35: the insertion is `State.inserted` at the victim. -/
theorem tlbInsertReplacesTheVictim : Obligations.TlbInsertReplacesTheVictim := by
  intro s vpn pfn m r v hf hr hcap hhand hv hfree
  refine ⟨_, exec_tlbInsert_of_free hf hr hcap hv hfree, ⟨rfl, rfl, rfl, rfl⟩, ?_⟩
  rw [State.entry_inserted_self hcap (hv.lt hr hhand)]
  exact ⟨TlbEntry.filled_w1 .., TlbEntry.filled_referenced .., TlbEntry.filled_modified ..,
    TlbEntry.filled_unused2 .., TlbEntry.filled_pfn .., fun _ => State.entry_inserted_of_ne,
    List.length_set, State.handAfter_toNat s v, rfl, rfl, rfl,
    ⟨rfl, rfl, rfl, fun _ => rfl, rfl, rfl⟩, rfl⟩

/-- Settles O36: an entry that is no candidate is valid and referenced, so the victim at the hand has its
two events sent, the first with its reference bit. -/
theorem fallbackVictimIsWrittenBack : Obligations.FallbackVictimIsWrittenBack := by
  refine ⟨fun s hcap => ⟨s.victim, State.victim_isVictim hcap, fun u hu => hu.eq_victim hcap⟩, ?_⟩
  intro s t vpn pfn m r hr hcap hhand hnone hexec ht
  have hv : IsVictim s s.hand.toNat := .inr ⟨rfl, hnone⟩
  have hlt : s.hand.toNat < s.cfg.n := hhand hr
  obtain ⟨hvalid, href⟩ := TlbEntry.candidate_eq_false.1 (hnone _ (Nat.le_refl _) hlt)
  obtain rfl := eq_inserted_of_exec hcap hv hexec ht
  refine ⟨hv, hvalid, href, State.inserted_holds hcap hlt, ?_⟩
  rw [State.inserted_notify, writeBackEvents_of_valid hvalid, href]

/-- Settles O37: the hand becomes `(v + 1) mod N`, and with `N = 1` the only victim is the last entry. -/
theorem handAdvancesPastTheVictim : Obligations.HandAdvancesPastTheVictim := by
  intro s t vpn pfn m r v hr hcap hhand hv hexec ht
  have hlt : v < s.cfg.n := hv.lt hr hhand
  obtain rfl := eq_inserted_of_exec hcap hv hexec ht
  exact ⟨State.handAfter_toNat_of_lt, State.handAfter_of_last,
    fun hn => State.handAfter_of_last (by omega)⟩

/-- Settles O38: the check's two outcomes; where it passes, no entry but the victim held the VPN, and where
it is off, an entry that held the VPN still does. -/
theorem insertDefendsUniquenessWhenAsked : Obligations.InsertDefendsUniquenessWhenAsked := by
  intro s vpn pfn m r v hf hr hcap hhand hv
  have hlt : v < s.cfg.n := hv.lt hr hhand
  refine ⟨exec_tlbInsert_of_held hf hr hcap hv, fun _ hfree => ?unique, fun hoff => ?unchecked⟩
  case unique =>
    refine ⟨_, exec_tlbInsert_of_free hf hr hcap hv fun _ => hfree, hf, State.inserted_holds hcap hlt,
      fun j hj => ?_⟩
    by_contra hne
    rw [State.entry_inserted_of_ne hne] at hj
    exact hfree ⟨j, hcap ▸ State.lt_of_holds hj, hne, hj⟩
  case unchecked =>
    have hnocheck : s.cfg.checkUnique = true → ¬ HeldElsewhere s v vpn := by simp [hoff]
    refine ⟨_, exec_tlbInsert_of_free hf hr hcap hv hnocheck, hf, State.inserted_holds hcap hlt, ?_⟩
    rintro ⟨j, -, hne, hj⟩
    exact ⟨j, hne, by rwa [State.entry_inserted_of_ne hne]⟩

/-! ### The state machine of the insertion (R177) -/

section Phases

variable {s : State} {vpn : Vpn} {pfn : Pfn} {m r : Bool} {v : Nat}

theorem insertPhaseRun_add (a b : Nat) (c : InsertPhase × State) :
    insertPhaseRun vpn pfn m r (a + b) c =
      insertPhaseRun vpn pfn m r b (insertPhaseRun vpn pfn m r a c) := by
  induction a generalizing c with
  | zero => rw [Nat.zero_add]; rfl
  | succ a ih => rw [Nat.succ_add]; exact ih _

/-- An ended machine stays where it is. -/
theorem insertPhaseRun_of_fixed {c : InsertPhase × State}
    (h : insertPhaseStep vpn pfn m r c = c) (fuel : Nat) : insertPhaseRun vpn pfn m r fuel c = c := by
  induction fuel with
  | zero => rfl
  | succ fuel ih => rw [insertPhaseRun, h, ih]

/-- SCAN at the entry `d` places before the end, all those it passed being no candidates, moves to CHECK
with the victim after at most `d` more increments of its index. -/
theorem scan_reaches_check (hv : IsVictim s v) {d k : Nat} (hd : k + d = s.cfg.n)
    (hk : s.hand.toNat ≤ k)
    (hpassed : ∀ j, s.hand.toNat ≤ j → j < k → (s.entry j).candidate = false) :
    ∃ fuel ≤ d + 1, insertPhaseRun vpn pfn m r fuel (.scan k, s) = (.check v, s) := by
  induction d generalizing k with
  | zero =>
    obtain rfl : k = s.cfg.n := hd
    obtain rfl := hv.unique (.inr ⟨rfl, hpassed⟩)
    exact ⟨1, Nat.le_refl _, if_pos (Nat.le_refl _)⟩
  | succ d ih =>
    have hlt : ¬ s.cfg.n ≤ k := by omega
    by_cases hc : (s.entry k).candidate = true
    · obtain rfl := hv.unique (.inl ⟨hk, Nat.not_le.1 hlt, hc, hpassed⟩)
      exact ⟨1, by omega, (if_neg hlt).trans (if_pos hc)⟩
    · have hstep : insertPhaseStep vpn pfn m r (.scan k, s) = (.scan (k + 1), s) :=
        (if_neg hlt).trans (if_neg hc)
      have hpassed' : ∀ j, s.hand.toNat ≤ j → j < k + 1 → (s.entry j).candidate = false := by
        intro j hj hjk
        rcases Nat.lt_succ_iff_lt_or_eq.1 hjk with h | rfl
        · exact hpassed j hj h
        · simpa using hc
      obtain ⟨fuel, hfuel, hrun⟩ := ih (by omega) (by omega) hpassed'
      exact ⟨fuel + 1, by omega, by rw [insertPhaseRun, hstep, hrun]⟩

/-- From CHECK, where the check passes, four transitions perform the insertion. -/
theorem check_reaches_done (hcap : TlbHasCapacity s)
    (hfree : s.cfg.checkUnique = true → ¬ HeldElsewhere s v vpn) (spare : Nat) :
    insertPhaseRun vpn pfn m r (4 + spare) (.check v, s) = (.done, s.inserted v vpn pfn m r) := by
  have hstep : insertPhaseStep vpn pfn m r (.check v, s) = (.writeBack v, s) :=
    if_neg fun hc => not_and.2 hfree ((refuses_iff hcap).1 hc)
  have hrun : insertPhaseRun vpn pfn m r 4 (.check v, s) = (.done, s.inserted v vpn pfn m r) := by
    rw [insertPhaseRun, hstep]; rfl
  rw [insertPhaseRun_add, hrun]
  exact insertPhaseRun_of_fixed rfl spare

/-- From CHECK, where the check fails, one transition records the fault. -/
theorem check_reaches_faulted (hcap : TlbHasCapacity s) (hc : s.cfg.checkUnique = true)
    (hheld : HeldElsewhere s v vpn) (spare : Nat) :
    insertPhaseRun vpn pfn m r (4 + spare) (.check v, s) =
      (.faulted, { s with fault := .duplicateVpn }) := by
  have hstep : insertPhaseStep vpn pfn m r (.check v, s) =
      (.faulted, { s with fault := .duplicateVpn }) := if_pos ((refuses_iff hcap).2 ⟨hc, hheld⟩)
  rw [Nat.add_comm, insertPhaseRun, hstep]
  exact insertPhaseRun_of_fixed rfl _

end Phases

/-- Settles O39: the scan leads to CHECK with the victim (by induction on the entries left), and from there
the machine writes what the command does, or faults where the command faults. -/
theorem insertionPhasesPerformTheAtomicCommand : Obligations.InsertionPhasesPerformTheAtomicCommand := by
  intro s vpn pfn m r hf hr hcap hhand
  have hlt : s.hand.toNat < s.cfg.n := hhand hr
  have hv : IsVictim s s.victim := State.victim_isVictim hcap
  obtain ⟨fuel, hfuel, hscan⟩ := scan_reaches_check (vpn := vpn) (pfn := pfn) (m := m) (r := r) hv
    (Nat.add_sub_of_le (Nat.le_of_lt hlt)) (Nat.le_refl _) fun _ hle hj => absurd hj (Nat.not_lt.2 hle)
  obtain ⟨spare, hspare⟩ : ∃ spare, s.cfg.n - s.hand.toNat + 5 = fuel + (4 + spare) :=
    ⟨s.cfg.n - s.hand.toNat + 1 - fuel, by omega⟩
  rw [hspare, insertPhaseRun_add, hscan]
  by_cases hheld : s.cfg.checkUnique = true ∧ HeldElsewhere s s.victim vpn
  · obtain ⟨hc, hheld⟩ := hheld
    exact ⟨_, _, check_reaches_faulted hcap hc hheld spare,
      exec_tlbInsert_of_held hf hr hcap hv hc hheld, .inr ⟨rfl, rfl⟩⟩
  · have hfree := not_and.1 hheld
    exact ⟨_, _, check_reaches_done hcap hfree spare, exec_tlbInsert_of_free hf hr hcap hv hfree,
      .inl ⟨rfl, hf⟩⟩

/-! ### Filling the TLB from TLB_INIT on (R178, R179) -/

/-- The operands of a TLB_INSERT: VPN, PFN, M and R. -/
abbrev InsertOperands := Vpn × Pfn × Bool × Bool

/-- The command with these operands. -/
def insertOf (e : InsertOperands) : Instr := .tlbInsert e.1 e.2.1 e.2.2.1 e.2.2.2

/-- The entry that the command with these operands writes. -/
def entryOf (e : InsertOperands) : TlbEntry := .filled e.1 e.2.1 e.2.2.1 e.2.2.2

/-- The TLB of a running engine holds these insertions in its first entries, in order, and nothing else,
and the hand stands behind them. Nothing was sent since `s₀`. -/
structure FilledBy (s₀ : State) (es : List InsertOperands) (s : State) : Prop where
  cfg : s.cfg = s₀.cfg
  notify : s.notify = s₀.notify
  fault : s.fault = .none
  ready : s.tlbReady = true
  capacity : TlbHasCapacity s
  hand : s.hand.toNat = es.length % s.cfg.n
  entries : ∀ k e, es[k]? = some e → s.entry k = entryOf e
  invalid : ∀ k, es.length ≤ k → (s.entry k).valid = false

section FilledBy

variable {s₀ s : State} {es : List InsertOperands}

/-- TLB_INIT leaves every entry invalid and the hand at 0 (R141). -/
theorem filledBy_nil_of_tlbInit (hf : s.fault = .none) (hr : s.tlbReady = false) :
    ∃ t, exec .tlbInit s = .next t ∧ FilledBy s [] t := by
  refine ⟨_, exec_of_effect (.tlbInit hr) hf, rfl, rfl, hf, rfl,
    (List.length_map _).trans s.cfg.contents_length, (Nat.zero_mod _).symm, nofun, fun k _ => ?_⟩
  rw [State.entry, getD_map_entry]
  split
  · exact TlbEntry.invalidated_valid _
  · exact TlbEntry.zero_valid

/-- Only the inserted VPNs are held. -/
theorem FilledBy.not_holds (h : FilledBy s₀ es s) {vpn : Vpn} (hnew : vpn ∉ es.map fun e => e.1)
    (k : Nat) : (s.entry k).holds vpn = false := by
  by_cases hk : k < es.length
  · have hne : es[k].1 ≠ vpn := fun heq => hnew (heq ▸ List.mem_map_of_mem (List.getElem_mem hk))
    rw [h.entries k _ (List.getElem?_eq_getElem hk), entryOf, TlbEntry.filled_holds]
    exact beq_false_of_ne hne
  · rw [TlbEntry.holds, h.invalid k (Nat.not_lt.1 hk), Bool.false_and]

/-- So the insert of another VPN passes the uniqueness check, whatever its victim. -/
theorem FilledBy.not_heldElsewhere (h : FilledBy s₀ es s) {vpn : Vpn}
    (hnew : vpn ∉ es.map fun e => e.1) (v : Nat) : ¬ HeldElsewhere s v vpn := by
  rintro ⟨k, -, -, hk⟩
  rw [h.not_holds hnew k] at hk
  cases hk

/-- While an entry is left, the insert of another VPN fills the next one and sends nothing. -/
theorem FilledBy.insert (h : FilledBy s₀ es s) {e : InsertOperands} (hlt : es.length < s.cfg.n)
    (hnew : e.1 ∉ es.map fun e => e.1) :
    ∃ t, exec (insertOf e) s = .next t ∧ FilledBy s₀ (es ++ [e]) t := by
  have hhand : s.hand.toNat = es.length := h.hand.trans (Nat.mod_eq_of_lt hlt)
  have hinvalid : (s.entry es.length).valid = false := h.invalid _ (Nat.le_refl _)
  have hv : IsVictim s es.length := isVictim_of_hand_of_invalid hhand hlt hinvalid
  have hexec := exec_tlbInsert_of_free (vpn := e.1) (pfn := e.2.1) (m := e.2.2.1) (r := e.2.2.2)
    h.fault h.ready h.capacity hv fun _ => h.not_heldElsewhere hnew _
  refine ⟨_, hexec, h.cfg, ?notify, h.fault, h.ready, List.length_set.trans h.capacity, ?hand,
    fun k e' hk => ?entries, fun k hk => ?invalid⟩
  case notify =>
    rw [State.inserted_notify, writeBackEvents_of_invalid hinvalid, List.append_nil, h.notify]
  case hand =>
    rw [List.length_append]
    exact State.handAfter_toNat s es.length
  case entries =>
    rw [List.getElem?_append] at hk
    split at hk
    · next hold => rw [State.entry_inserted_of_ne (Nat.ne_of_lt hold), h.entries k e' hk]
    · next hge =>
      rw [List.getElem?_singleton, Option.ite_none_right_eq_some, Option.some.injEq] at hk
      obtain ⟨hzero, rfl⟩ := hk
      obtain rfl : k = es.length := by omega
      exact State.entry_inserted_self h.capacity hlt
  case invalid =>
    rw [List.length_append, List.length_singleton] at hk
    rw [State.entry_inserted_of_ne (by omega)]
    exact h.invalid k (by omega)

/-- Further inserts of distinct VPNs, as long as entries are left, by induction on them. -/
theorem FilledBy.runCommands_inserts (h : FilledBy s₀ es s) {rest : List InsertOperands}
    (hlen : (es ++ rest).length ≤ s₀.cfg.n) (hnodup : ((es ++ rest).map fun e => e.1).Nodup) :
    ∃ t, runCommands (rest.map insertOf) s = .next t ∧ FilledBy s₀ (es ++ rest) t := by
  induction rest generalizing es s with
  | nil => exact ⟨s, rfl, by rwa [List.append_nil]⟩
  | cons e rest ih =>
    have hlt : es.length < s.cfg.n := by
      rw [List.length_append, List.length_cons] at hlen
      rw [h.cfg]
      omega
    have hnew : e.1 ∉ es.map fun e => e.1 := by
      rw [List.map_append, List.nodup_append] at hnodup
      obtain ⟨-, -, hdisjoint⟩ := hnodup
      exact fun hmem => hdisjoint _ hmem _ (List.mem_cons_self ..) rfl
    rw [List.append_cons] at hlen hnodup ⊢
    obtain ⟨t, hexec, ht⟩ := h.insert hlt hnew
    obtain ⟨u, hrun, hu⟩ := ih ht hlen hnodup
    exact ⟨u, by rw [List.map_cons, runCommands, hexec]; exact hrun, hu⟩

/-- Once every entry is filled, the insert of another VPN evicts one and sends its events. -/
theorem FilledBy.insert_evicts (h : FilledBy s₀ es s) (hfull : es.length = s.cfg.n) {vpn : Vpn}
    {pfn : Pfn} {m r : Bool} (hnew : vpn ∉ es.map fun e => e.1) :
    ∃ u k, exec (.tlbInsert vpn pfn m r) s = .next u ∧ u.fault = .none ∧ k < s.cfg.n ∧
      (u.entry k).holds vpn = true ∧ (∀ j, j ≠ k → u.entry j = s.entry j) ∧
      u.notify = s.notify ++ [⟨.ref, (s.entry k).pfn, (s.entry k).referenced⟩,
        ⟨.mod, (s.entry k).pfn, (s.entry k).modified⟩] := by
  have hv : IsVictim s s.victim := State.victim_isVictim h.capacity
  have hhand : HandInRange s := fun _ => h.hand ▸ Nat.mod_lt _ s.cfg.n_range.1
  have hlt : s.victim < s.cfg.n := hv.lt h.ready hhand
  have hvalid : (s.entry s.victim).valid = true := by
    rw [h.entries _ _ (List.getElem?_eq_getElem (hfull ▸ hlt))]
    exact TlbEntry.filled_valid ..
  refine ⟨_, s.victim, exec_tlbInsert_of_free h.fault h.ready h.capacity hv fun _ =>
    h.not_heldElsewhere hnew _, h.fault, hlt, State.inserted_holds h.capacity hlt,
    fun _ => State.entry_inserted_of_ne, ?_⟩
  rw [State.inserted_notify, writeBackEvents_of_valid hvalid]

end FilledBy

/-- Settles O55: `FilledBy` holds of no insert after TLB_INIT and of one more after each insert; with all
entries filled the next insert must evict a valid one. -/
theorem oneInsertBeyondCapacityEvictsExactlyOne : Obligations.OneInsertBeyondCapacityEvictsExactlyOne := by
  intro s es hf hr hlen hnodup
  obtain ⟨t₀, hinit, h₀⟩ := filledBy_nil_of_tlbInit hf hr
  obtain ⟨t, hrun, h⟩ := h₀.runCommands_inserts (rest := es) (Nat.le_of_eq hlen) hnodup
  have hfull : es.length = t.cfg.n := by rw [hlen, h.cfg]
  have hhand : t.hand = 0 := BitVec.eq_of_toNat_eq (by rw [h.hand]; simp [hfull])
  refine ⟨t, by rw [runCommands, hinit]; exact hrun, h.fault, h.notify, hhand, h.capacity,
    fun k e hk => ?_, fun vpn pfn m r hnew => ?_⟩
  · rw [h.entries k e hk, entryOf, TlbEntry.filled_holds]
    exact ⟨BEq.rfl, TlbEntry.filled_pfn .., TlbEntry.filled_modified .., TlbEntry.filled_referenced ..⟩
  · rw [← h.notify, ← h.cfg]
    exact h.insert_evicts hfull hnew

end Sys2Proof.Machine
end

section
/-! PROOFS of the statements of `43_tlb_ref_modify_write_back.md`: what TLB_WRITE_BACK sends (R202), which
commands send at all (R203), and that a used and modified entry is reported once (R204). -/

namespace Sys2Proof.Machine

/-! ### The array entry by entry (R30, R202) -/

section Entries

variable {s : State}

/-- The array is its entries in ascending index order. -/
theorem State.tlb_eq_map_entry (hcap : TlbHasCapacity s) :
    s.tlb = (List.range s.cfg.n).map s.entry := by
  refine List.ext_getElem (by rw [List.length_map, List.length_range, hcap]) fun k hk _ => ?_
  rw [List.getElem_map, List.getElem_range, State.entry_of_lt hk]

/-- The array as the entries before one of them, that entry, and the entries after it. -/
theorem State.tlb_split_at (hcap : TlbHasCapacity s) {k : Nat} (hlt : k < s.cfg.n) :
    s.tlb = s.tlb.take k ++ s.entry k :: s.tlb.drop (k + 1) := by
  have hk : k < s.tlb.length := hcap.symm ▸ hlt
  rw [State.entry_of_lt hk, ← List.drop_eq_getElem_cons hk, List.take_append_drop]

/-- Elements that a filter drops are elements that give the empty list. -/
theorem flatMap_filter_eq_flatMap_ite {α β : Type} (p : α → Bool) (f : α → List β) (l : List α) :
    (l.filter p).flatMap f = l.flatMap fun a => if p a then f a else [] := by
  induction l with
  | nil => rfl
  | cons a l ih =>
    rw [List.flatMap_cons, List.filter_cons, ← ih]
    split
    · exact List.flatMap_cons
    · rfl

/-- Invalid entries send nothing, so only the valid ones are walked. -/
theorem State.flatMap_writeBackEvents (hcap : TlbHasCapacity s) :
    s.tlb.flatMap writeBackEvents =
      ((List.range s.cfg.n).filter fun k => (s.entry k).valid).flatMap fun k =>
        [⟨.ref, (s.entry k).pfn, (s.entry k).referenced⟩,
          ⟨.mod, (s.entry k).pfn, (s.entry k).modified⟩] := by
  rw [State.tlb_eq_map_entry hcap, List.flatMap_map, flatMap_filter_eq_flatMap_ite]
  rfl

/-- A valid entry with R = 1 and M = 1 sends two events, each with bit 1. -/
theorem writeBackEvents_of_used {e : TlbEntry} (hvalid : e.valid = true) (href : e.referenced = true)
    (hmod : e.modified = true) :
    writeBackEvents e = [⟨.ref, e.pfn, true⟩, ⟨.mod, e.pfn, true⟩] := by
  rw [writeBackEvents_of_valid hvalid, href, hmod]

end Entries

/-! ### The command (R202) -/

/-- A TLB_WRITE_BACK answered while the TLB is ready has sent the events of every entry. -/
theorem notify_of_exec_tlbWriteBack {s t : State} (hr : s.tlbReady = true)
    (hexec : exec .tlbWriteBack s = .next t) :
    t.notify = s.notify ++ s.tlb.flatMap writeBackEvents := by
  have hf : s.fault = .none := (tlbCommand_eq_next.1 hexec).1
  rw [exec_of_effect (.tlbWriteBack hr) hf, Host.Outcome.next.injEq] at hexec
  rw [← hexec]

/-- Settles O40: the command sends the events of each entry of the array, and the array is its entries in
index order. -/
theorem tlbWriteBackSendsEveryValidEntry : Obligations.TlbWriteBackSendsEveryValidEntry := by
  intro s hf hr hcap
  rw [exec_of_effect (.tlbWriteBack hr) hf, State.flatMap_writeBackEvents hcap]

/-! ### Which commands send (R203) -/

/-- What is sent stays sent: a command only appends to the events. -/
theorem CommandEffect.notify_appends {i : Instr} {s t : State} (he : CommandEffect i s t) :
    ∃ es, t.notify = s.notify ++ es := by
  cases he with
  | tlbInsert | tlbWriteBack => exact ⟨_, rfl⟩
  | _ => exact ⟨[], (List.append_nil _).symm⟩

/-- A command that sends is TLB_WRITE_BACK or an insertion whose victim is valid. -/
theorem CommandEffect.writer_notify {i : Instr} {s t : State} (he : CommandEffect i s t)
    (h : t.notify ≠ s.notify) :
    i = .tlbWriteBack ∨
      ∃ vpn pfn m r, i = .tlbInsert vpn pfn m r ∧ (s.entry s.victim).valid = true := by
  cases he with
  | tlbWriteBack => exact .inl rfl
  | tlbInsert =>
    refine .inr ⟨_, _, _, _, rfl, ?_⟩
    by_contra hinvalid
    rw [writeBackEvents_of_invalid (eq_false_of_ne_true hinvalid), List.append_nil] at h
    exact h rfl
  | _ => exact absurd rfl h

/-- Settles O41: both halves are read off the command's effect, and the victim the model computes is the
one of R171 and R172. -/
theorem onlyInsertAndWriteBackSendEvents : Obligations.OnlyInsertAndWriteBackSendEvents := by
  intro i s t hcap hexec
  refine ⟨(exec_effect hexec).notify_appends, fun hne => ?_⟩
  refine ((exec_effect hexec).writer_notify hne).imp_right ?_
  rintro ⟨vpn, pfn, m, r, hi, hvalid⟩
  exact ⟨vpn, pfn, m, r, s.victim, hi, State.victim_isVictim hcap, hvalid⟩

/-! ### One entry reported once (R204) -/

/-- Settles O42: an eviction sends the events of its victim alone; TLB_WRITE_BACK sends those of the
entry between those of the two parts of the array that it separates. -/
theorem writeBackReportsSetBitsOnce : Obligations.WriteBackReportsSetBitsOnce := by
  intro s t k hr hcap hlt hvalid href hmod
  rw [← writeBackEvents_of_used hvalid href hmod]
  refine ⟨fun vpn pfn m r hv hexec ht => ?evicted, fun hexec => ?writtenBack⟩
  case evicted => rw [eq_inserted_of_exec hcap hv hexec ht, State.inserted_notify]
  case writtenBack =>
    have hsplit : s.tlb.flatMap writeBackEvents = (s.tlb.take k).flatMap writeBackEvents ++
        (writeBackEvents (s.entry k) ++ (s.tlb.drop (k + 1)).flatMap writeBackEvents) := by
      rw [← List.flatMap_cons, ← List.flatMap_append, ← State.tlb_split_at hcap hlt]
    rw [notify_of_exec_tlbWriteBack hr hexec, hsplit, List.append_assoc, List.append_assoc]

end Sys2Proof.Machine
end

section
/-! PROOFS of the statements of `60_exceptions.md`: which fault a command meets (R221) and in which order
(R224), that a command ends in a response or a fault and never in both (R220, R222), and the halted and
the idle engine (R223, R236). -/

namespace Sys2Proof.Machine

/-! ### The halted and the idle engine (R223, R236) -/

/-- Every command begins with the check of R224's first priority. -/
theorem exec_of_halted {s : State} (hf : s.fault ≠ .none) (i : Instr) : exec i s = .fault .halted := by
  cases i <;> exact unlessHalted_of_halted hf _

/-- A command that answers a next state was given to a running engine. -/
theorem running_of_exec {i : Instr} {s t : State} (h : exec i s = .next t) : s.fault = .none := by
  by_contra hf
  rw [exec_of_halted hf] at h
  cases h

/-- Taking a word does not restart a halted engine. -/
theorem step_of_halted {s : State} (hf : s.fault ≠ .none) : step s = .fault .halted := by
  cases hinput : s.input with
  | nil =>
    simp only [step, State.fetch, hinput]
    exact unlessHalted_of_halted hf _
  | cons w rest =>
    simp only [step, State.fetch_of_input hinput]
    cases decode w with
    | ok i => exact exec_of_halted (s := { s with input := rest }) hf i
    | error x => exact unlessHalted_of_halted (s := { s with input := rest }) hf _

theorem running_of_step {s t : State} (h : step s = .next t) : s.fault = .none := by
  by_contra hf
  rw [step_of_halted hf] at h
  cases h

/-- Settles O12: a halted engine answers nothing, so one that answers is running. -/
theorem haltedEngineTakesNoCommand : Obligations.HaltedEngineTakesNoCommand :=
  ⟨fun _ hf => ⟨step_of_halted hf, exec_of_halted hf, fun hended => hf hended.2⟩,
    fun _ _ => running_of_step, fun _ => rfl⟩

/-- Settles O10: there is no word to fetch, and the engine is running. -/
theorem idleEngineKeepsAllState : Obligations.IdleEngineKeepsAllState := by
  intro s hf hinput
  simp only [step, State.fetch, hinput]
  exact unlessHalted_of_running hf _

/-! ### What a fault changes (R222) -/

/-- An effect that records a fault in a running engine is the recording alone. -/
theorem CommandEffect.eq_of_fault {i : Instr} {s t : State} (he : CommandEffect i s t)
    (hs : s.fault = .none) (ht : t.fault ≠ .none) : t = { s with fault := t.fault } := by
  cases he with
  | faults c hc => rfl
  | _ => exact absurd hs ht

theorem eq_of_exec_of_fault {i : Instr} {s t : State} (h : exec i s = .next t)
    (ht : t.fault ≠ .none) : t = { s with fault := t.fault } :=
  (exec_effect h).eq_of_fault (running_of_exec h) ht

/-- Settles O13: a step that faults in a running engine is not the idle step; it took a word, which was
illegal or a faulting command. -/
theorem faultingCommandChangesOnlyFault : Obligations.FaultingCommandChangesOnlyFault := by
  refine ⟨fun _ _ _ => eq_of_exec_of_fault, fun s t hstep ht => ?_⟩
  have hs := running_of_step hstep
  obtain rfl | ⟨w, rest, hinput, hword⟩ := step_effect hstep
  · exact absurd hs ht
  · refine ⟨w, rest, hinput, ?_⟩
    obtain rfl | ⟨i, -, he⟩ := hword
    · rfl
    · exact he.eq_of_fault hs ht

/-! ### The fault a command meets (R221, R224)

`initFault` gives the fault of priority 3; the fault of priority 4 is the command's own. Together they are
all that a command of a running engine can meet, and `exec_ends` ties them to the commands. -/

/-- The command's own fault, if it meets one: INDEX_RANGE (R150), DUPLICATE_VPN (R173) or
RESOURCE_EXHAUSTED (R113). -/
def ownFault (s : State) : Instr → Option FaultCode
  | .ptUpdate v _ =>
      if s.allocated v then none else if s.poolUsedUp then some .resourceExhausted else none
  | .tlbInsert v _ _ _ =>
      if s.cfg.checkUnique && s.heldElsewhere s.victim v then some .duplicateVpn else none
  | .tlbReadEntry k => if s.cfg.n ≤ k.toNat then some .indexRange else none
  | _ => none

/-- The fault a command of a running engine records, if any: an initialisation fault goes before the
command's own (R224). -/
def commandFault (s : State) (i : Instr) : Option FaultCode := (initFault s i).or (ownFault s i)

/-- How a command ends in a running engine: it records the fault it meets, or it completes with one
response (R220). -/
inductive Ends (s : State) : Option FaultCode → Result → Prop where
  | faults {c : FaultCode} (hc : c ≠ .none) : Ends s (some c) (raise c s)
  | completes {t : State} {r : Response} (hf : t.fault = .none)
      (hr : t.responses = s.responses ++ [r]) : Ends s none (.next t)

theorem Ends.complete {s t : State} (r : Response) (hf : t.fault = .none)
    (hr : t.responses = s.responses) : Ends s none (complete r t) :=
  .completes hf (congrArg (· ++ [r]) hr)

/-- A choice between two ends meets the fault of the end that is taken. -/
theorem Ends.ite {s : State} {p : Prop} [Decidable p] {f g : Option FaultCode} {a b : Result}
    (ha : Ends s f a) (hb : Ends s g b) : Ends s (if p then f else g) (if p then a else b) := by
  split
  · exact ha
  · exact hb

section Guards

variable {s : State} (hf : s.fault = .none)
include hf

/-- An initialisation command has no fault but DOUBLE_INIT (R23). -/
theorem Ends.initCommand (b : Bool) {body : Result} (hbody : Ends s none body) :
    Ends s ((if b then some .doubleInit else none).or none)
      (unlessHalted s (if b then raise .doubleInit s else body)) := by
  rw [unlessHalted_of_running hf, Option.or_none]
  exact .ite (.faults (by decide)) hbody

/-- Every other command ends as its body does, once its sub-block is ready (R110, R140). -/
theorem Ends.guarded (ready : Bool) {f : Option FaultCode} {body : Result} (hbody : Ends s f body) :
    Ends s ((if ready then none else some .notInitialized).or f)
      (unlessHalted s (if ready then body else raise .notInitialized s)) := by
  rw [unlessHalted_of_running hf]
  cases ready with
  | true => exact hbody
  | false => exact .faults (by decide)

/-- Every command of a running engine ends as its conditions say: the equation between the model's
commands and the faults of R221 and R224. -/
theorem exec_ends (i : Instr) : Ends s (commandFault s i) (exec i s) := by
  cases i with
  | ptInit => exact .initCommand hf _ (.complete _ hf rfl)
  | tlbInit => exact .initCommand hf _ (.complete _ hf rfl)
  | ptGetFrame v =>
    refine .guarded hf _ ?_
    cases s.ptTranslate v with
    | some f => exact .complete _ hf rfl
    | none => exact .complete _ hf rfl
  | ptUpdate v f =>
    exact .guarded hf _
      (.ite (.complete _ hf rfl) (.ite (.faults (by decide)) (.complete _ hf rfl)))
  | ptClearEntry v =>
    refine .guarded hf _ ?_
    cases s.allocated v with
    | true => exact .complete _ hf rfl
    | false => exact .complete _ hf rfl
  | tlbLookup v op =>
    refine .guarded hf _ ?_
    cases s.tlbFind v with
    | some k => exact .complete _ hf rfl
    | none => exact .complete _ hf rfl
  | tlbInsert v f m r => exact .guarded hf _ (.ite (.faults (by decide)) (.complete _ hf rfl))
  | tlbReadEntry k => exact .guarded hf _ (.ite (.faults (by decide)) (.complete _ hf rfl))
  | ptReadPte | tlbClearAll | tlbClearAllRef | tlbClearEntry | tlbWriteBack | tlbReadHand =>
    exact .guarded hf _ (.complete _ hf rfl)

end Guards

theorem Ends.eq_of_fault {s : State} {c : FaultCode} {o : Result} (h : Ends s (some c) o) :
    o = .next { s with fault := c } := by
  cases h
  rfl

theorem Ends.fault_eq {s t : State} {f : Option FaultCode} (h : Ends s f (.next t)) :
    t.fault = f.getD .none := by
  cases h with
  | faults hc => rfl
  | completes ht hr => exact ht

/-- A command that meets a fault records it and does nothing else. -/
theorem exec_of_commandFault {i : Instr} {s : State} {c : FaultCode} (hf : s.fault = .none)
    (hc : commandFault s i = some c) : exec i s = .next { s with fault := c } :=
  Ends.eq_of_fault (hc ▸ exec_ends hf i)

/-- The fault code after a command is that of the fault it met. -/
theorem fault_of_exec {i : Instr} {s t : State} (h : exec i s = .next t) :
    t.fault = (commandFault s i).getD .none :=
  Ends.fault_eq (h ▸ exec_ends (running_of_exec h) i)

theorem fault_eq_iff {i : Instr} {s t : State} {c : FaultCode} (h : exec i s = .next t)
    (hc : c ≠ .none) : t.fault = c ↔ commandFault s i = some c := by
  rw [fault_of_exec h]
  cases commandFault s i with
  | none => simp [hc.symm]
  | some d => simp

/-- Settles O14: the two ends of a command. -/
theorem everyCommandCompletesOrFaults : Obligations.EveryCommandCompletesOrFaults := by
  intro i s hf
  have hends := exec_ends hf i
  generalize commandFault s i = f, exec i s = o at hends
  cases hends with
  | faults hc => exact ⟨_, rfl, .inr ⟨hc, rfl⟩⟩
  | completes ht hr => exact ⟨_, rfl, .inl ⟨ht, _, hr⟩⟩

/-! ### The faults of each priority (R224) -/

/-- The faults of priority 3 are the two initialisation faults. -/
theorem initFault_range {i : Instr} {s : State} {c : FaultCode} (h : initFault s i = some c) :
    c = .notInitialized ∨ c = .doubleInit := by
  unfold initFault at h
  split at h <;> split at h <;> cases h <;> simp

/-- Three commands have a fault of their own, each another one. -/
theorem ownFault_range {i : Instr} {s : State} {c : FaultCode} (h : ownFault s i = some c) :
    (c = .indexRange ∧ ∃ k, i = .tlbReadEntry k) ∨
      (c = .duplicateVpn ∧ ∃ v f m r, i = .tlbInsert v f m r) ∨
      (c = .resourceExhausted ∧ ∃ v f, i = .ptUpdate v f) := by
  cases i with
  | tlbReadEntry k =>
    obtain ⟨-, rfl⟩ : s.cfg.n ≤ k.toNat ∧ FaultCode.indexRange = c := by simpa [ownFault] using h
    exact .inl ⟨rfl, k, rfl⟩
  | tlbInsert v f m r =>
    obtain ⟨-, rfl⟩ : _ ∧ FaultCode.duplicateVpn = c := by simpa [ownFault] using h
    exact .inr (.inl ⟨rfl, v, f, m, r, rfl⟩)
  | ptUpdate v f =>
    obtain ⟨-, -, rfl⟩ : _ ∧ _ ∧ FaultCode.resourceExhausted = c := by simpa [ownFault] using h
    exact .inr (.inr ⟨rfl, v, f, rfl⟩)
  | _ => cases h

/-- An initialisation fault is never one of the command's own. -/
theorem commandFault_eq_init {i : Instr} {s : State} {c : FaultCode}
    (hc : c = .notInitialized ∨ c = .doubleInit) :
    commandFault s i = some c ↔ initFault s i = some c := by
  rw [commandFault, Option.or_eq_some_iff]
  refine ⟨fun h => h.resolve_right fun ⟨_, hown⟩ => ?_, .inl⟩
  have := ownFault_range hown
  rcases hc with rfl | rfl <;> simp at this

/-- Any other fault is the command's own, met once its sub-block is initialised. -/
theorem commandFault_eq_own {i : Instr} {s : State} {c : FaultCode} (h₂ : c ≠ .notInitialized)
    (h₃ : c ≠ .doubleInit) :
    commandFault s i = some c ↔ initFault s i = none ∧ ownFault s i = some c := by
  rw [commandFault, Option.or_eq_some_iff]
  refine ⟨fun h => h.resolve_left fun hinit => ?_, .inr⟩
  exact (initFault_range hinit).elim h₂ h₃

/-- No command records the fault of a word that is none (R83). -/
theorem commandFault_ne_illegalCommand (i : Instr) (s : State) :
    commandFault s i ≠ some .illegalCommand := by
  intro h
  have hown := ownFault_range ((commandFault_eq_own (by decide) (by decide)).1 h).2
  simp at hown

/-! ### The cause of each fault (R221) -/

/-- NOT_INITIALIZED: a command of a sub-block before its initialisation command (R23). -/
theorem initFault_eq_notInitialized {i : Instr} {s : State} :
    initFault s i = some .notInitialized ↔
      (isPageTableCommand i = true ∧ i ≠ .ptInit ∧ s.ptReady = false) ∨
        (isPageTableCommand i = false ∧ i ≠ .tlbInit ∧ s.tlbReady = false) := by
  cases i <;> simp [initFault, isPageTableCommand]

/-- DOUBLE_INIT: an initialisation command of a sub-block that is ready (R23). -/
theorem initFault_eq_doubleInit {i : Instr} {s : State} :
    initFault s i = some .doubleInit ↔
      (i = .ptInit ∧ s.ptReady = true) ∨ (i = .tlbInit ∧ s.tlbReady = true) := by
  cases i <;> simp [initFault]

/-- INDEX_RANGE (R150). -/
theorem commandFault_eq_indexRange {i : Instr} {s : State} :
    commandFault s i = some .indexRange ↔
      s.tlbReady = true ∧ ∃ k, i = .tlbReadEntry k ∧ s.cfg.n ≤ k.toNat := by
  rw [commandFault_eq_own (by decide) (by decide)]
  cases i with
  | tlbReadEntry k => simp [initFault, ownFault]
  | _ => simp [ownFault]

/-- RESOURCE_EXHAUSTED (R113). -/
theorem commandFault_eq_resourceExhausted {i : Instr} {s : State} :
    commandFault s i = some .resourceExhausted ↔
      s.ptReady = true ∧ ∃ vpn pfn, i = .ptUpdate vpn pfn ∧ s.allocated vpn = false ∧
        s.l2Used.toNat = s.cfg.l2Pool := by
  rw [commandFault_eq_own (by decide) (by decide)]
  cases i with
  | ptUpdate vpn pfn => simp [initFault, ownFault, State.poolUsedUp]
  | _ => simp [ownFault]

/-- TLB_INSERT's check at the victim the model computes is R173's at the victim of R171 and R172. -/
theorem refuses_victim_iff {s : State} {vpn : Vpn} (hcap : TlbHasCapacity s) :
    (s.cfg.checkUnique && s.heldElsewhere s.victim vpn) = true ↔
      s.cfg.checkUnique = true ∧ ∃ v, IsVictim s v ∧ HeldElsewhere s v vpn := by
  rw [refuses_iff hcap]
  refine and_congr_right fun _ => ⟨fun h => ⟨_, State.victim_isVictim hcap, h⟩, ?_⟩
  rintro ⟨v, hv, h⟩
  exact hv.eq_victim hcap ▸ h

/-- DUPLICATE_VPN (R173). -/
theorem commandFault_eq_duplicateVpn {i : Instr} {s : State} (hcap : TlbHasCapacity s) :
    commandFault s i = some .duplicateVpn ↔
      s.tlbReady = true ∧ s.cfg.checkUnique = true ∧
        ∃ vpn pfn m r v, i = .tlbInsert vpn pfn m r ∧ IsVictim s v ∧ HeldElsewhere s v vpn := by
  rw [commandFault_eq_own (by decide) (by decide)]
  cases i with
  | tlbInsert vpn pfn m r => simp [initFault, ownFault, -Bool.and_eq_true, refuses_victim_iff hcap]
  | _ => simp [ownFault]

/-- An ILLEGAL_COMMAND is recorded for the words that are no command, and for no other (R83). -/
theorem step_illegalCommand_iff {s : State} {w : Word64} {rest : List Word64} (hf : s.fault = .none)
    (hinput : s.input = w :: rest) :
    step s = .next { s with input := rest, fault := .illegalCommand } ↔ ∀ i, decode w ≠ .ok i := by
  refine ⟨fun hstep i hdecode => ?_, step_of_illegal hf hinput⟩
  rw [stepRunsTheDecodedCommand s w rest i hinput hdecode] at hstep
  exact commandFault_ne_illegalCommand i _ ((fault_eq_iff hstep (by decide)).1 rfl)

/-- Settles O15: the recorded fault is the one the command meets, and each has its cause. -/
theorem eachFaultHasItsCause : Obligations.EachFaultHasItsCause := by
  refine ⟨fun i s t hcap hf h => ?_, fun s w rest => step_illegalCommand_iff,
    rfl, rfl, rfl, rfl, rfl, rfl, rfl⟩
  refine ⟨fun ht => ?illegal, ?notInitialized, ?doubleInit, ?indexRange, ?duplicateVpn,
    ?resourceExhausted, eq_of_exec_of_fault h⟩
  case illegal => exact commandFault_ne_illegalCommand i s ((fault_eq_iff h (by decide)).1 ht)
  all_goals rw [fault_eq_iff h (by decide)]
  case notInitialized => rw [commandFault_eq_init (.inl rfl), initFault_eq_notInitialized]
  case doubleInit => rw [commandFault_eq_init (.inr rfl), initFault_eq_doubleInit]
  case indexRange => exact commandFault_eq_indexRange
  case duplicateVpn => exact commandFault_eq_duplicateVpn hcap
  case resourceExhausted => exact commandFault_eq_resourceExhausted

/-! ### The order of the faults (R224) -/

/-- A legal word whose command meets an initialisation fault records that fault, whatever fault of its own
the command would meet. -/
theorem step_of_initFault {s : State} {w : Word64} {rest : List Word64} {i : Instr} {c : FaultCode}
    (hf : s.fault = .none) (hinput : s.input = w :: rest) (hdecode : decode w = .ok i)
    (hc : initFault s i = some c) : step s = .next { s with input := rest, fault := c } := by
  have htaken : initFault { s with input := rest } i = some c := by
    rw [← hc]
    cases i <;> rfl
  rw [stepRunsTheDecodedCommand s w rest i hinput hdecode]
  exact exec_of_commandFault hf ((commandFault_eq_init (initFault_range htaken)).2 htaken)

/-- A command whose sub-block is initialised as it needs completes or meets its own fault. -/
theorem ownFault_of_exec {i : Instr} {s t : State} (h : exec i s = .next t)
    (hinit : initFault s i = none) : t.fault = .none ∨ ownFault s i = some t.fault := by
  rw [fault_of_exec h, commandFault, hinit, Option.none_or]
  cases ownFault s i with
  | none => exact .inl rfl
  | some c => exact .inr rfl

/-- Settles O16: each priority in turn; a command's own fault is one of three, and a fault changes neither
the responses nor the flags. -/
theorem faultPriorityIsHaltedIllegalInitOwn : Obligations.FaultPriorityIsHaltedIllegalInitOwn := by
  refine ⟨fun s w rest hinput => ⟨step_of_halted, fun hf => step_of_illegal hf hinput,
    fun i c hf => step_of_initFault hf hinput⟩, fun i s t h hinit => ?own, fun i s t h ht => ?alone⟩
  case own =>
    obtain hnone | hown := ownFault_of_exec h hinit
    · simp [hnone]
    · obtain ⟨hc, hi⟩ | ⟨hc, hi⟩ | ⟨hc, hi⟩ := ownFault_range hown <;> simpa [hc] using hi
  case alone =>
    rw [eq_of_exec_of_fault h ht]
    exact ⟨rfl, rfl, rfl⟩

end Sys2Proof.Machine
end

section
/-! PROOFS of the statements of `70_reset_and_hazards.md`: the Ready state after both initialisations
(R252). -/

namespace Sys2Proof.Machine

/-! ### The state after both initialisations (R252) -/

/-- What PT_INIT and TLB_INIT make of a state between them (R111, R141). Neither writes a piece that the
other one reads or writes (R3) but the list of responses, so their order leaves no trace. -/
def State.bothInitialised (s : State) : State :=
  { s with
    ptReady := true, l1a := [], l2Used := 0, tlbReady := true
    tlb := s.cfg.tlbInitContents.map TlbEntry.invalidated, hand := 0
    responses := s.responses ++ [.respNone] ++ [.respNone] }

/-- Two commands that each answer a next state. -/
theorem runCommands_pair {i j : Instr} {s t u : State} (hi : exec i s = .next t)
    (hj : exec j t = .next u) : runCommands [i, j] s = .next u := by
  simp [runCommands, hi, hj]

section BothInitialised

variable {s : State}

theorem runCommands_ptInit_tlbInit (hf : s.fault = .none) (hp : s.ptReady = false)
    (ht : s.tlbReady = false) : runCommands [.ptInit, .tlbInit] s = .next s.bothInitialised :=
  runCommands_pair (exec_of_effect (.ptInit hp) hf) (exec_of_effect (.tlbInit ht) hf)

theorem runCommands_tlbInit_ptInit (hf : s.fault = .none) (hp : s.ptReady = false)
    (ht : s.tlbReady = false) : runCommands [.tlbInit, .ptInit] s = .next s.bothInitialised :=
  runCommands_pair (exec_of_effect (.tlbInit ht) hf) (exec_of_effect (.ptInit hp) hf)

/-- Each entry is the configuration's, invalidated (R141). -/
theorem State.entry_bothInitialised {k : Nat} (hk : k < s.cfg.n) :
    s.bothInitialised.entry k = (s.cfg.tlbInitContents.getD k ⟨0, 0⟩).invalidated :=
  (getD_map_entry ..).trans (if_pos (s.cfg.contents_length.symm ▸ hk))

/-- R252's table, row by row: the rows no initialisation writes stand as reset left them. -/
theorem IsReset.isReady_bothInitialised {cfg : Config} (h : IsReset cfg s) :
    IsReady cfg s.bothInitialised := by
  obtain ⟨rfl, -, -, hfault, hnotify, hpageFault, htlbMiss, -⟩ := h
  exact {
    sameCfg := rfl
    ptReady := rfl
    tlbReady := rfl
    l1a := fun _ => rfl
    l2Used := rfl
    tlbLength := (List.length_map _).trans s.cfg.contents_length
    w1Valid := fun k hk => by rw [State.entry_bothInitialised hk, TlbEntry.invalidated_valid]
    w1Rest := fun k hk => by rw [State.entry_bothInitialised hk, TlbEntry.invalidated_w1_low]
    w2 := fun k hk => by rw [State.entry_bothInitialised hk, TlbEntry.invalidated_w2]
    hand := rfl
    pageFault := hpageFault
    tlbMiss := htlbMiss
    fault := hfault
    notify := hnotify }

end BothInitialised

/-- Settles O19: either order gives the one state `State.bothInitialised`, of which R252's table holds. -/
theorem bothInitialisationsGiveReadyState : Obligations.BothInitialisationsGiveReadyState := by
  intro cfg s h
  exact ⟨⟨_, runCommands_ptInit_tlbInit h.fault h.ptReady h.tlbReady, h.isReady_bothInitialised⟩,
    _, runCommands_tlbInit_ptInit h.fault h.ptReady h.tlbReady, h.isReady_bothInitialised⟩

end Sys2Proof.Machine
end
